-- ==== Sys2Proof/Word.lean ====
section
/-! DEFINITION. The two word types of the block: every transfer on every port is a whole 32-bit word
(20_memory.md R63), and tokens, codes and memory bytes are 8 bits wide. -/

namespace Sys2Proof

/-- A 32-bit port or register word (20_memory.md R63). -/
abbrev Word := BitVec 32

/-- An 8-bit field of a command word, a token, or one byte of the host's memory. -/
abbrev Byte := BitVec 8

end Sys2Proof
end

