-- ==== Sys2Proof/Syntax.lean ====
section
/-! DEFINITION. The transactions of the two ports, the opcodes and formats of the control port, and the
instructions: one constructor for each row of spec/opcode_table.json (30_encoding.md R80 to R84). -/

namespace Sys2Proof

/-- One transaction of a port (30_encoding.md R80): on the control port two words, the command word and
the operand word; on the audio port the frame-count word and the word of the buffer's base byte address
(20_memory.md R63: every transfer is a whole 32-bit word; log entry 8). -/
inductive Transaction where
  | control (cw ow : Word)
  | audio (fw fbuf : Word)
  deriving DecidableEq, Repr

/-- The two ports (30_encoding.md R80). -/
inductive Port where
  | control
  | audio
  deriving DecidableEq, Repr

/-- The four formats of a control command (30_encoding.md R82). -/
inductive Format where
  | cf0
  | cfa
  | cfab
  | cfw
  deriving DecidableEq, Repr

/-- The nineteen assigned opcodes of the control port (30_encoding.md R84). -/
inductive Opcode where
  | noteOn
  | noteOff
  | gateOn
  | gateOff
  | setFreq
  | setWave
  | setVoices
  | setDetune
  | setAttack
  | setDecay
  | setSustain
  | setRelease
  | setOsr
  | setAlpha
  | setStrength
  | streamStart
  | streamStop
  | getReg
  | clrStatus
  deriving DecidableEq, Repr

/-- The instructions: the nineteen control commands and the audio port's FILL, with the operands of
30_encoding.md R83. An A or B operand is the whole 8-bit field; its legal range is `Instr.wf`. -/
inductive Instr where
  /-- NOTE_ON note, velocity (44_control.md R221). -/
  | noteOn (note vel : Byte)
  /-- NOTE_OFF note (R222). -/
  | noteOff (note : Byte)
  /-- GATE_ON token (R223). -/
  | gateOn (tok : Byte)
  /-- GATE_OFF (R224). -/
  | gateOff
  /-- SET_FREQ W, in Hz (R225). -/
  | setFreq (w : Word)
  /-- SET_WAVE kind (R226). -/
  | setWave (kind : Byte)
  /-- SET_VOICES count (R227). -/
  | setVoices (count : Byte)
  /-- SET_DETUNE W, in cents (R228). -/
  | setDetune (w : Word)
  /-- SET_ATTACK W, in seconds (R229). -/
  | setAttack (w : Word)
  /-- SET_DECAY W, in seconds (R230). -/
  | setDecay (w : Word)
  /-- SET_SUSTAIN W, a level (R232). -/
  | setSustain (w : Word)
  /-- SET_RELEASE W, in seconds (R231). -/
  | setRelease (w : Word)
  /-- SET_OSR factor (R233). -/
  | setOsr (ratio : Byte)
  /-- SET_ALPHA W, a coefficient (R234). -/
  | setAlpha (w : Word)
  /-- SET_STRENGTH W (R235). -/
  | setStrength (w : Word)
  /-- STREAM_START W, a sample rate in Hz (R236). -/
  | streamStart (w : Word)
  /-- STREAM_STOP (R237). -/
  | streamStop
  /-- GET_REG index (R238). -/
  | getReg (idx : Byte)
  /-- CLR_STATUS (R239). -/
  | clrStatus
  /-- FILL FN into the buffer at FBUF (43_engine.md R190). -/
  | fill (fn fbuf : Word)
  deriving DecidableEq, Repr

end Sys2Proof
end

