-- ==== Sys2Proof/WellFormed.lean ====
section
/-! DEFINITION. Which operands an instruction may hold: the closed ranges that the decoder refuses to
leave (30_encoding.md R83, R88). -/

namespace Sys2Proof

/-- The operand ranges of 30_encoding.md R83: a note number and a velocity are at most 127, a waveform
code is at most 3. Every other operand takes every value of its field. -/
def Instr.wf : Instr → Bool
  | .noteOn note vel => note.toNat ≤ 127 && vel.toNat ≤ 127
  | .noteOff note => note.toNat ≤ 127
  | .setWave kind => kind.toNat ≤ 3
  | .gateOn _ | .gateOff | .setFreq _ | .setVoices _ | .setDetune _ | .setAttack _ | .setDecay _
  | .setSustain _ | .setRelease _ | .setOsr _ | .setAlpha _ | .setStrength _ | .streamStart _
  | .streamStop | .getReg _ | .clrStatus | .fill _ _ => true

end Sys2Proof
end

