-- ==== Sys2Proof/Decode.lean ====
section
/-! DEFINITION. Decoding and encoding of transactions (30_encoding.md R80 to R90), written from the
tables of R81, R82 and R84. Decoding is total and refuses by name; the encoder emits OW = 0 for the
formats that do not use it (R90). -/

namespace Sys2Proof

/-- Why a control transaction is ignored (30_encoding.md R85 to R88). -/
inductive BadCommand where
  /-- OP is not assigned (R86). -/
  | badOpcode
  /-- A reserved bit is not zero (R87). -/
  | rsvNonzero
  /-- A note or velocity above 127, or a waveform code above 3 (R88). -/
  | badField
  deriving DecidableEq, Repr

/-! ### Fields of the command word (R81) -/

/-- CW[31:24]. -/
def opField (cw : Word) : Byte := cw.extractLsb' 24 8
/-- CW[23:16]. -/
def aField (cw : Word) : Byte := cw.extractLsb' 16 8
/-- CW[15:8]. -/
def bField (cw : Word) : Byte := cw.extractLsb' 8 8
/-- CW[7:0]. -/
def zField (cw : Word) : Byte := cw.extractLsb' 0 8

/-- CW = OP : A : B : Z (R90). -/
def packWord (op a b z : Byte) : Word := (op ++ a) ++ (b ++ z)

/-! ### The opcode map (R84) -/

/-- The OP column of R84. -/
def Opcode.code : Opcode → Byte
  | .noteOn => 0x01#8
  | .noteOff => 0x02#8
  | .gateOn => 0x03#8
  | .gateOff => 0x04#8
  | .setFreq => 0x10#8
  | .setWave => 0x11#8
  | .setVoices => 0x12#8
  | .setDetune => 0x13#8
  | .setAttack => 0x14#8
  | .setDecay => 0x15#8
  | .setSustain => 0x16#8
  | .setRelease => 0x17#8
  | .setOsr => 0x18#8
  | .setAlpha => 0x19#8
  | .setStrength => 0x1A#8
  | .streamStart => 0x20#8
  | .streamStop => 0x21#8
  | .getReg => 0x30#8
  | .clrStatus => 0x31#8

/-- The opcode an OP byte is assigned to (R84); every other byte is illegal (R86). -/
def opcodeOf (op : Byte) : Option Opcode :=
  match op.toNat with
  | 0x01 => some .noteOn
  | 0x02 => some .noteOff
  | 0x03 => some .gateOn
  | 0x04 => some .gateOff
  | 0x10 => some .setFreq
  | 0x11 => some .setWave
  | 0x12 => some .setVoices
  | 0x13 => some .setDetune
  | 0x14 => some .setAttack
  | 0x15 => some .setDecay
  | 0x16 => some .setSustain
  | 0x17 => some .setRelease
  | 0x18 => some .setOsr
  | 0x19 => some .setAlpha
  | 0x1A => some .setStrength
  | 0x20 => some .streamStart
  | 0x21 => some .streamStop
  | 0x30 => some .getReg
  | 0x31 => some .clrStatus
  | _ => none

/-- The format column of R84. -/
def Opcode.format : Opcode → Format
  | .noteOn => .cfab
  | .noteOff | .gateOn | .setWave | .setVoices | .setOsr | .getReg => .cfa
  | .gateOff | .streamStop | .clrStatus => .cf0
  | .setFreq | .setDetune | .setAttack | .setDecay | .setSustain | .setRelease | .setAlpha
  | .setStrength | .streamStart => .cfw

/-- Whether a format uses the A field (R82). -/
def Format.usesA : Format → Bool
  | .cfa | .cfab => true
  | .cf0 | .cfw => false

/-- Whether a format uses the B field (R82). -/
def Format.usesB : Format → Bool
  | .cfab => true
  | .cf0 | .cfa | .cfw => false

/-! ### Decoding (R85) -/

/-- The second check of R85: Z, and A and B where the format has no use for them, are zero. -/
def reservedZero (f : Format) (a b z : Byte) : Bool :=
  z == 0#8 && (f.usesA || a == 0#8) && (f.usesB || b == 0#8)

/-- The third check of R85: notes and velocities are at most 127, waveform codes at most 3. -/
def fieldsInRange (o : Opcode) (a b : Byte) : Bool :=
  match o with
  | .noteOn => a.toNat ≤ 127 && b.toNat ≤ 127
  | .noteOff => a.toNat ≤ 127
  | .setWave => a.toNat ≤ 3
  | .gateOn | .gateOff | .setFreq | .setVoices | .setDetune | .setAttack | .setDecay | .setSustain
  | .setRelease | .setOsr | .setAlpha | .setStrength | .streamStart | .streamStop | .getReg
  | .clrStatus => true

/-- The instruction an opcode makes of its operands (R83, R84). -/
def assemble (o : Opcode) (a b : Byte) (ow : Word) : Instr :=
  match o with
  | .noteOn => .noteOn a b
  | .noteOff => .noteOff a
  | .gateOn => .gateOn a
  | .gateOff => .gateOff
  | .setFreq => .setFreq ow
  | .setWave => .setWave a
  | .setVoices => .setVoices a
  | .setDetune => .setDetune ow
  | .setAttack => .setAttack ow
  | .setDecay => .setDecay ow
  | .setSustain => .setSustain ow
  | .setRelease => .setRelease ow
  | .setOsr => .setOsr a
  | .setAlpha => .setAlpha ow
  | .setStrength => .setStrength ow
  | .streamStart => .streamStart ow
  | .streamStop => .streamStop
  | .getReg => .getReg a
  | .clrStatus => .clrStatus

/-- The decoder of the control port, total on every 64-bit transaction (R85). -/
def decodeControl (cw ow : Word) : Except BadCommand Instr :=
  match opcodeOf (opField cw) with
  | none => .error .badOpcode
  | some o =>
    if reservedZero o.format (aField cw) (bField cw) (zField cw) then
      if fieldsInRange o (aField cw) (bField cw) then .ok (assemble o (aField cw) (bField cw) ow)
      else .error .badField
    else .error .rsvNonzero

/-- The decoder of both ports. The audio port has no illegal encoding (R89). -/
def decode : Transaction → Except BadCommand Instr
  | .control cw ow => decodeControl cw ow
  | .audio fw fbuf => .ok (.fill fw fbuf)

/-! ### Encoding (R84, R90) -/

/-- A command word of format CF0 or CFW. -/
def plainWord (o : Opcode) : Word := packWord o.code 0#8 0#8 0#8

/-- A command word of format CFA. -/
def wordWithA (o : Opcode) (a : Byte) : Word := packWord o.code a 0#8 0#8

/-- The transaction of an instruction (R90). -/
def encode : Instr → Transaction
  | .noteOn note vel => .control (packWord Opcode.noteOn.code note vel 0#8) 0#32
  | .noteOff note => .control (wordWithA .noteOff note) 0#32
  | .gateOn tok => .control (wordWithA .gateOn tok) 0#32
  | .gateOff => .control (plainWord .gateOff) 0#32
  | .setFreq w => .control (plainWord .setFreq) w
  | .setWave kind => .control (wordWithA .setWave kind) 0#32
  | .setVoices count => .control (wordWithA .setVoices count) 0#32
  | .setDetune w => .control (plainWord .setDetune) w
  | .setAttack w => .control (plainWord .setAttack) w
  | .setDecay w => .control (plainWord .setDecay) w
  | .setSustain w => .control (plainWord .setSustain) w
  | .setRelease w => .control (plainWord .setRelease) w
  | .setOsr ratio => .control (wordWithA .setOsr ratio) 0#32
  | .setAlpha w => .control (plainWord .setAlpha) w
  | .setStrength w => .control (plainWord .setStrength) w
  | .streamStart w => .control (plainWord .streamStart) w
  | .streamStop => .control (plainWord .streamStop) 0#32
  | .getReg idx => .control (wordWithA .getReg idx) 0#32
  | .clrStatus => .control (plainWord .clrStatus) 0#32
  | .fill fn fbuf => .audio fn fbuf

/-! ### Words over a byte-addressed medium: little-endian (20_memory.md R63) -/

/-- The four bytes of a word, lowest address first (R63). -/
def bytesOfWord (w : Word) : List Byte :=
  [w.extractLsb' 0 8, w.extractLsb' 8 8, w.extractLsb' 16 8, w.extractLsb' 24 8]

/-- The word whose bytes are these, lowest address first (R63). -/
def wordOfBytes (b0 b1 b2 b3 : Byte) : Word := (b3 ++ b2) ++ (b1 ++ b0)

/-- Why a byte stream gives no instruction. -/
inductive StreamStop where
  /-- Fewer than the eight bytes of a transaction are there. -/
  | incomplete
  /-- The transaction is complete and malformed; it is consumed whole (R85). -/
  | bad (c : BadCommand) (rest : List Byte)
  deriving DecidableEq, Repr

/-- The transaction of a port's two words. -/
def Port.transaction : Port → Word → Word → Transaction
  | .control, cw, ow => .control cw ow
  | .audio, fw, fbuf => .audio fw fbuf

/-- A port carried over a byte stream: the command word and then the operand word, or the frame-count
word and then the buffer's address (R63, R80; log entry 15). -/
def decodeStream (port : Port) : List Byte → Except StreamStop (Instr × List Byte)
  | a0 :: a1 :: a2 :: a3 :: b0 :: b1 :: b2 :: b3 :: rest =>
    match decode (port.transaction (wordOfBytes a0 a1 a2 a3) (wordOfBytes b0 b1 b2 b3)) with
    | .ok i => .ok (i, rest)
    | .error c => .error (.bad c rest)
  | _ => .error .incomplete

/-- The eight bytes of a transaction, in the order of the stream. -/
def streamBytes : Transaction → List Byte
  | .control w0 w1 | .audio w0 w1 => bytesOfWord w0 ++ bytesOfWord w1

/-! ### The opcode table's numbering -/

/-- The transaction that a row of spec/opcode_table.json numbers as `w` over `nbits` bits (log entry 2):
bits 31:0 are the first word and bits 63:32 the operand word. A word of at most 32 bits whose OP byte
is 0, which no control command has (R86), is the frame-count word of the table's FILL row, with the
buffer at address 0. -/
def tableTransaction (nbits w : Nat) : Transaction :=
  let first := BitVec.ofNat 32 w
  if nbits ≤ 32 && opField first == 0#8 then .audio first 0#32
  else .control first (BitVec.ofNat 32 (w / 2 ^ 32))

/-- What the decoder reads from an instruction whose bits are `w`, numbered as the opcode table numbers
them. -/
def decodeTableWord (nbits w : Nat) : Option Instr :=
  match decode (tableTransaction nbits w) with
  | .ok i => some i
  | .error _ => none

end Sys2Proof
end

