-- ==== Sys2Proof/Config.lean ====
section
/-! DEFINITION. What is fixed for the block: the implementation parameters of 00_scope.md R5, the
precisions at which the model evaluates the reference, and the free values
(constants with no body: nothing can evaluate them, so a claim holds whatever they are). -/

namespace Sys2Proof.Config

/-- V_MIN and V_MAX, the unison voice count range (R5). -/
def vMin : Nat := 1
def vMax : Nat := 8

/-- R_MIN and R_MAX, the oversampling factor range (R5). -/
def rMin : Nat := 1
def rMax : Nat := 16

/-- D_MAX, the upper bound of the unison detune, in cents (R5). -/
def dMax : Rat := 100

/-- EPS_DUR, the minimum stage duration: the binary32 nearest to 0.001 s (R5). -/
def epsDur : Word := 0x3A83126F#32

/-- DUR_MAX, the maximum stage duration: 10 s (R5). -/
def durMax : Rat := 10

/-- FREQ_MAX, the upper clamp of FREQ: 20000 Hz (R5). -/
def freqMax : Rat := 20000

/-- The upper bound of STRENGTH, 0.5 (R5). -/
def strengthMax : Rat := mkRat 1 2

/-- SQ_AA_AMPL, the square's amplitude in anti-aliasing mode: 0.8, exactly 4/5 (R5, R10). -/
def sqAaAmpl : Rat := mkRat 4 5

/-- A4_FREQ and A4_NOTE, the tuning reference (R5). -/
def a4Freq : Rat := 440
def a4Note : Int := 69

/-- EVQ_DEPTH, the depth of the note-event queue (R5). -/
def evqDepth : Nat := 16

/-- The identification word of the ID register (00_scope.md R2). -/
def idWord : Word := 0x53594E07#32

/-- The reset words of the four envelope parameters and of ALPHA (10_state.md R26 to R29, R31); a
setter given a NaN stores the same word (44_control.md R229 to R234). -/
def attackReset : Word := 0x3C23D70A#32
def decayReset : Word := 0x3DCCCCCD#32
def sustainReset : Word := 0x3F333333#32
def releaseReset : Word := 0x3E4CCCCD#32
def alphaReset : Word := 0x3F800000#32

/-- DESIGN CHOICE (log entry 5). The first precision, in bits, at which an exact real is enclosed, and how
many precisions, each twice the one before, are tried. -/
def firstPrecision : Nat := 64
def precisionSteps : Nat := 1024

/-- FREE VALUE (log entry 5). Which end of the enclosure a word is rounded from when no precision settles
it. -/
opaque unresolvedLow : Rat → Rat → Bool

/-- FREE VALUE (log entry 12). The real that a non-finite word in a register would denote. No register
of a reachable state holds one (00_scope.md R8). -/
opaque nonFiniteReal : Word → Rat

/-- FREE VALUE (log entry 9). What the host reads at a byte address of a buffer that is being filled, by
the sample counter, the frame index and the address (20_memory.md R76, 93 I14). -/
opaque inFlightByte : Word → Word → Nat → Byte

end Sys2Proof.Config
end

