-- ==== Sys2Proof/Machine/State.lean ====
section
/-! DEFINITION. The state of the block as plain data (10_state.md R20 to R54), its faults and refusals,
and the state after power-on reset (70_reset_and_hazards.md R280). -/

namespace Sys2Proof.Machine

/-- The waveform kinds, the closed enumeration of WAVE.KIND (10_state.md R23). -/
inductive WaveKind where
  | sine
  | triangle
  | square
  | sawtooth
  deriving DecidableEq, Repr

/-- Field group FREQ (10_state.md R38). -/
structure FreqGroup where
  /-- FREQ, binary32 Hz (R22). -/
  freq : Word
  deriving DecidableEq, Repr

/-- Field group VOICE, the source's UnisonSettings (R38). -/
structure VoiceGroup where
  /-- WAVE.KIND (R23). -/
  wave : WaveKind
  /-- VOICES, bits 3:0 (R24). -/
  voices : BitVec 4
  /-- DETUNE, binary32 cents (R25). -/
  detune : Word
  deriving DecidableEq, Repr

/-- Field group ENVP, the source's EnvelopeParams (R38). -/
structure EnvpGroup where
  /-- ATTACK, binary32 seconds (R26). -/
  attack : Word
  /-- DECAY, binary32 seconds (R27). -/
  decay : Word
  /-- SUSTAIN, binary32 level (R28). -/
  sustain : Word
  /-- RELEASE, binary32 seconds (R29). -/
  release : Word
  deriving DecidableEq, Repr

/-- Field group QUAL, the source's OscillatorQuality (R38). -/
structure QualGroup where
  /-- OSR, bits 4:0 (R30). -/
  osr : BitVec 5
  /-- ALPHA, binary32 coefficient (R31). -/
  alpha : Word
  /-- STRENGTH, binary32 (R32). -/
  strength : Word
  deriving DecidableEq, Repr

/-- The four field groups. PARAM and SNAP have the same fields (R38, R39). -/
structure Params where
  freqGroup : FreqGroup
  voiceGroup : VoiceGroup
  envpGroup : EnvpGroup
  qualGroup : QualGroup
  deriving DecidableEq, Repr

/-- STATUS bits 0 to 5 (R34, R35). Bit 6, STOP_PEND, mirrors `FillCtx.stopPend` and is stored there. -/
structure Status where
  running : Bool
  badCmd : Bool
  evqOvf : Bool
  setupErr : Bool
  silenced : Bool
  fillIdle : Bool
  deriving DecidableEq, Repr

/-- E.state (R40). -/
inductive Stage where
  | idle
  | attack
  | decay
  | sustain
  | release
  deriving DecidableEq, Repr

/-- The one envelope E (R40 to R45). Its reals are rationals (log entry 4): they are made from register
values and 1 by +, -, *, / and comparison only. -/
structure Envelope where
  stage : Stage
  value : Rat
  elapsed : Rat
  origin : Rat
  susSnap : Rat
  note : Byte
  noteValid : Bool
  deriving DecidableEq, Repr

/-- A note event of the queue EVQ (R51). -/
inductive NoteEvent where
  | start (tok : Byte)
  | stop (tok : Byte)
  | stopAny
  deriving DecidableEq, Repr

/-- FILLCTX, the state of a FILL in progress (R54). -/
structure FillCtx where
  /-- FIP: a FILL is in progress. -/
  fip : Bool
  /-- FN: its frame count. -/
  fn : Word
  /-- FJ: the index of the next frame. -/
  fj : Word
  /-- FBUF: the buffer's base byte address (log entry 8). -/
  fbuf : Word
  /-- BADBUF: a frame of this buffer produced a non-finite word. -/
  badBuf : Bool
  /-- STOP_PEND: a STREAM_STOP waits for this FILL (STATUS bit 6). -/
  stopPend : Bool
  deriving DecidableEq, Repr

/-- The bytes of host memory that the engine has written (20_memory.md R60, R66), by rising address with
no repeats. An unlisted address has no value (log entry 9). -/
abbrev Memory := List Host.Cell

/-- One snapshot draw: for each field group, whether the copy is fresh (20_memory.md R68). -/
structure Draw where
  freq : Bool
  voice : Bool
  envp : Bool
  qual : Bool
  deriving DecidableEq, Repr

/-- What takes the next step: a transaction that arrives at a port (a CP command, or an AS request with
EN's first step), or one step of EN on the FILL in progress (20_memory.md R67; log entry 1). -/
inductive Input where
  | port (t : Transaction)
  | engineTurn
  deriving DecidableEq, Repr

/-- The state of the block (R20), the outside it writes to, and the model's two lists of what is still
to come from outside. -/
structure State where
  /-- PARAM (R20, R22 to R32). -/
  param : Params
  /-- SRATE (R33). -/
  srate : Word
  /-- STATUS (R34, R35). -/
  status : Status
  /-- LAST_ERR.CODE (R36). -/
  lastErr : Byte
  /-- SNAP (R39). -/
  snap : Params
  /-- E (R40 to R45). -/
  env : Envelope
  /-- N, the sample counter (R49). -/
  n : Word
  /-- LAST_FREQ (R50). -/
  lastFreq : Word
  /-- EVQ, oldest first (R51). -/
  evq : List NoteEvent
  /-- FILLCTX (R54). -/
  fill : FillCtx
  /-- The output buffer space (20_memory.md R60). -/
  mem : Memory
  /-- The replies of GET_REG, oldest first (44_control.md R220). -/
  replies : List Word
  /-- MODEL'S OWN: the transactions and engine turns still to come, first first (log entry 1). -/
  inputs : List Input
  /-- MODEL'S OWN: the snapshot draws still to come, first first (log entry 3). -/
  draws : List Draw
  deriving DecidableEq, Repr

/-- The faults. The block itself has no trap and no fault (60_exceptions.md R263). -/
inductive Fault where
  /-- Raised by FRAME when SRATE holds no finite value above 0. 43_engine.md R194 needs `sr > 0` and
  10_state.md R33 gives it while a session runs, so no run from reset reaches it (safe; log entry 12). -/
  | rateNotPositive
  deriving DecidableEq, Repr

/-- The refusals. -/
inductive Refusal where
  /-- Raised by `exec` for an instruction that has no meaning yet (safe); no arm of `exec` does. -/
  | notModelled (mnemonic : String)
  /-- Raised by FILL when FBUF is no multiple of 4: "a model refuses it" (20_memory.md R64) (safe). -/
  | fillMisaligned
  /-- Raised by FILL while another FILL is in progress: "A model refuses a FILL that breaks duty 1 or
  2" (70_reset_and_hazards.md R293) (safe). -/
  | fillOutstanding
  deriving DecidableEq, Repr

/-- The reset values of the parameter registers (70_reset_and_hazards.md R280). -/
def Params.reset : Params where
  freqGroup := { freq := 0x00000000#32 }
  voiceGroup := { wave := .sine, voices := 1#4, detune := 0x00000000#32 }
  envpGroup :=
    { attack := Config.attackReset, decay := Config.decayReset, sustain := Config.sustainReset,
      release := Config.releaseReset }
  qualGroup := { osr := 1#5, alpha := Config.alphaReset, strength := 0x00000000#32 }

/-- E after reset and after STREAM_START: created Idle (R40 to R45, 44_control.md R236). -/
def Envelope.reset : Envelope where
  stage := .idle
  value := 0
  elapsed := 0
  origin := 0
  susSnap := 0
  note := 0#8
  noteValid := false

/-- The state right after power-on reset (70_reset_and_hazards.md R280). -/
def State.reset : State where
  param := Params.reset
  srate := 0x00000000#32
  status :=
    { running := false, badCmd := false, evqOvf := false, setupErr := false, silenced := false,
      fillIdle := false }
  lastErr := 0#8
  snap := Params.reset
  env := Envelope.reset
  n := 0#32
  lastFreq := 0x00000000#32
  evq := []
  fill := { fip := false, fn := 0#32, fj := 0#32, fbuf := 0#32, badBuf := false, stopPend := false }
  mem := []
  replies := []
  inputs := []
  draws := []

end Sys2Proof.Machine
end

