-- ==== Sys2Proof/Machine/Flags.lean ====
section
/-! DEFINITION. The status flags of the block (00_scope.md R11): the conditions with their codes and
STATUS bits (60_exceptions.md R260), the STATUS word (10_state.md R35), the envelope's activity flags
(R46) and the ENVSTAT word (R47). -/

namespace Sys2Proof.Machine

/-- The conditions the block records (R260). -/
inductive Condition where
  | badOpcode
  | rsvNonzero
  | badField
  | evqOverflow
  | badRate
  | nonfiniteOutput
  | fillStopped
  deriving DecidableEq, Repr

/-- The code column of R260. -/
def Condition.code : Condition → Byte
  | .badOpcode => 0x01#8
  | .rsvNonzero => 0x02#8
  | .badField => 0x03#8
  | .evqOverflow => 0x04#8
  | .badRate => 0x05#8
  | .nonfiniteOutput => 0x06#8
  | .fillStopped => 0x07#8

/-- Setting the STATUS bit of a condition (R260, R261). -/
def Status.record (st : Status) : Condition → Status
  | .badOpcode | .rsvNonzero | .badField => { st with badCmd := true }
  | .evqOverflow => { st with evqOvf := true }
  | .badRate => { st with setupErr := true }
  | .nonfiniteOutput => { st with silenced := true }
  | .fillStopped => { st with fillIdle := true }

/-- STATUS bits 1 to 5 cleared, bit 0 kept (44_control.md R239). -/
def Status.clearSticky (st : Status) : Status :=
  { running := st.running, badCmd := false, evqOvf := false, setupErr := false, silenced := false,
    fillIdle := false }

/-- The condition a malformed control transaction records (30_encoding.md R85 to R88). -/
def conditionOf : BadCommand → Condition
  | .badOpcode => .badOpcode
  | .rsvNonzero => .rsvNonzero
  | .badField => .badField

/-- STATUS: 25 zeros, STOP_PEND, FILL_IDLE, SILENCED, SETUP_ERR, EVQ_OVF, BADCMD, RUNNING
(44_control.md R238). -/
def statusWord (st : Status) (stopPend : Bool) : Word :=
  0#25 ++ BitVec.ofBool stopPend ++ BitVec.ofBool st.fillIdle ++ BitVec.ofBool st.silenced
    ++ BitVec.ofBool st.setupErr ++ BitVec.ofBool st.evqOvf ++ BitVec.ofBool st.badCmd
    ++ BitVec.ofBool st.running

/-- The numeric code of E.state (R40). -/
def stageCode : Stage → BitVec 3
  | .idle => 0#3
  | .attack => 1#3
  | .decay => 2#3
  | .sustain => 3#3
  | .release => 4#3

/-- TRIGGERED: a note is held (R46). -/
def Stage.triggered : Stage → Bool
  | .attack | .decay | .sustain => true
  | .idle | .release => false

/-- PROCESSING: the envelope is producing a curve (R46). -/
def Stage.processing : Stage → Bool
  | .attack | .decay | .sustain | .release => true
  | .idle => false

/-- RELEASED (R46). -/
def Stage.released : Stage → Bool
  | .release => true
  | .idle | .attack | .decay | .sustain => false

/-- ENVSTAT (R47). -/
def envStatWord (e : Envelope) : Word :=
  0#16 ++ e.note ++ 0#1 ++ BitVec.ofBool e.stage.released ++ BitVec.ofBool e.stage.processing
    ++ BitVec.ofBool e.stage.triggered ++ BitVec.ofBool e.noteValid ++ stageCode e.stage

/-- The numeric code of WAVE.KIND (R23). -/
def waveCode : WaveKind → BitVec 2
  | .sine => 0#2
  | .triangle => 1#2
  | .square => 2#2
  | .sawtooth => 3#2

/-- The waveform of the two low bits of a code (R23, 44_control.md R226). -/
def waveOfCode (k : BitVec 2) : WaveKind :=
  match k.toNat with
  | 0 => .sine
  | 1 => .triangle
  | 2 => .square
  | _ => .sawtooth

end Sys2Proof.Machine
end

