-- ==== Sys2Proof/Machine/F32.lean ====
section
/-! DEFINITION. binary32 words as exact numbers (00_scope.md R8, R9): `f32` reads the exact value of a
finite word and `toF32` rounds an exact rational to the nearest word, ties to even. -/

namespace Sys2Proof.Machine

/-- Bit 31, the sign (R9). -/
def signBit (w : Word) : Bool := w.getLsbD 31

/-- Bits 30:23, the biased exponent (R9). -/
def expField (w : Word) : Nat := (w.extractLsb' 23 8).toNat

/-- Bits 22:0, the fraction (R9). -/
def fracField (w : Word) : Nat := (w.extractLsb' 0 23).toNat

/-- A word is finite when its exponent field is not 255 (R9). -/
def isFinite (w : Word) : Bool := expField w != 255

/-- Exponent field 255 with a nonzero fraction (R9). -/
def isNaN (w : Word) : Bool := expField w == 255 && fracField w != 0

/-- The encodings of +inf and -inf (44_control.md R242). -/
def posInf : Word := 0x7F800000#32
def negInf : Word := 0xFF800000#32

/-- The significand of a finite word as a whole number of units (R9): the fraction, with the hidden bit
where the exponent field is not 0. -/
def significand (w : Word) : Nat :=
  if expField w = 0 then fracField w else 2 ^ 23 + fracField w

/-- The weight of one unit of the significand is 2^(scale - 150); an exponent field of 0 has the weight
of an exponent field of 1 (R9). -/
def unitScale (w : Word) : Nat := if expField w = 0 then 1 else expField w

/-- The exact value of a finite word (R8, R9). -/
def finiteValue (w : Word) : Rat :=
  let m : Int := if signBit w then -(significand w : Int) else significand w
  if 150 ≤ unitScale w then mkRat (m * 2 ^ (unitScale w - 150)) 1
  else mkRat m (2 ^ (150 - unitScale w))

/-- `f32(w)`, the exact real a finite word denotes (00_scope.md R10). A non-finite word denotes none and
no register of a reachable state holds one; its value is free (log entry 12). -/
def f32 (w : Word) : Rat := if isFinite w then finiteValue w else Config.nonFiniteReal w

/-- `n / d` for `d` above 0, rounded to a whole number, ties to even (R8). -/
def divHalfEven (n d : Nat) : Nat :=
  let q := n / d
  let r := n % d
  if 2 * r < d then q else if d < 2 * r then q + 1 else if q % 2 = 0 then q else q + 1

/-- Whether 2^k ≤ n / d. -/
def pow2Le (k : Int) (n d : Nat) : Bool :=
  if 0 ≤ k then d * 2 ^ k.toNat ≤ n else d ≤ n * 2 ^ (-k).toNat

/-- The exponent of the binade of n / d, for n and d above 0. -/
def floorLog2 (n d : Nat) : Int :=
  let k : Int := (Nat.log2 n : Int) - Nat.log2 d
  if pow2Le k n d then k else k - 1

/-- The word, without its sign, nearest to n / d, for n and d above 0 (R8): the quotient is rounded to a
multiple of the unit of its binade (of the subnormal binade at least), and a rounding up into the next
binade carries into the exponent field. What lies beyond the largest finite value is +inf (93 G1). -/
def roundMagnitude (n d : Nat) : Nat :=
  let e : Int := max (floorLog2 n d) (-126)
  let up : Int := 23 - e
  let m := if 0 ≤ up then divHalfEven (n * 2 ^ up.toNat) d else divHalfEven n (d * 2 ^ (-up).toNat)
  min ((e + 126).toNat * 2 ^ 23 + m) 0x7F800000

/-- `toF32(q)`, the binary32 word nearest to an exact rational, ties to even (R8). An exact 0 is
0x00000000 (43_engine.md R197); a negative q keeps its sign even where it rounds to 0 (log entry 6). -/
def toF32 (q : Rat) : Word :=
  if q.num = 0 then 0#32
  else
    BitVec.ofNat 32
      ((if q.num < 0 then 2 ^ 31 else 0) + roundMagnitude q.num.natAbs q.den)

end Sys2Proof.Machine
end

