-- ==== Sys2Proof/Machine/Numerics.lean ====
section
/-! DEFINITION. The arithmetic the pseudocode is written in, as an argument (NUMERICS, 00_scope.md R8,
93 I11), and the model's evaluation of the reference: enclosures of exact reals between two rationals.
An operation on rational operands is exact; only sin and 2^x are enclosed, to a given number of bits
(log entry 5). -/

namespace Sys2Proof.Machine

/-- NUMERICS: the operations the sample pseudocode of 40_oscillator.md and 41_unison.md uses. The exact
reals are one such arithmetic (`Numerics.real`), a realization's arithmetic is another (R113), and
`Numerics.tracked` is the one the model computes with (Machine/Exact.lean). -/
structure Numerics (α : Type) where
  /-- An exact register value, counter or literal. -/
  exact : Rat → α
  add : α → α → α
  sub : α → α → α
  mul : α → α → α
  abs : α → α
  /-- Division by an exact number. -/
  divide : α → Rat → α
  /-- clamp(x, lo, hi) (R10). -/
  clamp : α → Rat → Rat → α
  /-- PHASE(f, τ) = fract(f · τ), τ exact (40_oscillator.md R101, R102). -/
  phase : α → Rat → α
  /-- The first value if the phase is below 1/2, else the second (R104). -/
  belowHalf : α → α → α → α
  /-- sin(2π · φ) of a phase φ (R106). -/
  sinTurns : α → α
  /-- 2^x (41_unison.md R134, 44_control.md R241). -/
  exp2 : Rat → α

/-! ### Rounding a rational to a multiple of 2^-p -/

/-- The largest multiple of 2^-p that is at most q. -/
def roundDown (p : Nat) (q : Rat) : Rat := mkRat (q.num * 2 ^ p / (q.den : Int)) (2 ^ p)

/-- The least multiple of 2^-p that is at least q. -/
def roundUp (p : Nat) (q : Rat) : Rat := mkRat (-(-q.num * 2 ^ p / (q.den : Int))) (2 ^ p)

/-! ### Enclosures -/

/-- An exact real known to lie between two rationals. -/
structure Ival where
  lo : Rat
  hi : Rat
  deriving DecidableEq, Repr

/-- An exact rational. -/
def Ival.point (q : Rat) : Ival := ⟨q, q⟩

def Ival.add (x y : Ival) : Ival := ⟨x.lo + y.lo, x.hi + y.hi⟩

def Ival.sub (x y : Ival) : Ival := ⟨x.lo - y.hi, x.hi - y.lo⟩

def Ival.neg (x : Ival) : Ival := ⟨-x.hi, -x.lo⟩

/-- The product: its ends are among the products of the ends. -/
def Ival.mul (x y : Ival) : Ival :=
  let a := x.lo * y.lo
  let b := x.lo * y.hi
  let c := x.hi * y.lo
  let d := x.hi * y.hi
  ⟨min (min a b) (min c d), max (max a b) (max c d)⟩

def Ival.abs (x : Ival) : Ival :=
  if 0 ≤ x.lo then x else if x.hi ≤ 0 then x.neg else ⟨0, max (-x.lo) x.hi⟩

/-- The product with an exact number. -/
def Ival.scale (x : Ival) (q : Rat) : Ival :=
  if 0 ≤ q then ⟨x.lo * q, x.hi * q⟩ else ⟨x.hi * q, x.lo * q⟩

/-- The quotient by an exact number. -/
def Ival.divide (x : Ival) (q : Rat) : Ival := x.scale q⁻¹

/-- clamp(x, lo, hi) = min(max(x, lo), hi) (00_scope.md R10). -/
def clampRat (x lo hi : Rat) : Rat := min (max x lo) hi

def Ival.clamp (x : Ival) (lo hi : Rat) : Ival := ⟨clampRat x.lo lo hi, clampRat x.hi lo hi⟩

/-- fract(f · τ): where the ends of f · τ have one floor, the fractional parts of the ends; else nothing
is known but that the phase lies in [0, 1). -/
def Ival.phase (f : Ival) (τ : Rat) : Ival :=
  let y := f.scale τ
  if y.lo.floor = y.hi.floor then ⟨y.lo - y.lo.floor, y.hi - y.lo.floor⟩ else ⟨0, 1⟩

/-- The choice of R104, both values where the phase is not told apart from 1/2. -/
def Ival.belowHalf (φ a b : Ival) : Ival :=
  if φ.hi < mkRat 1 2 then a
  else if mkRat 1 2 ≤ φ.lo then b
  else ⟨min a.lo b.lo, max a.hi b.hi⟩

/-! ### π and sin -/

/-- The first n terms of arctan(1/m) = Σ (-1)^i / ((2i+1) · m^(2i+1)). -/
def arctanSum (m : Nat) : Nat → Rat
  | 0 => 0
  | n + 1 => arctanSum m n + mkRat (if n % 2 = 0 then 1 else -1) ((2 * n + 1) * m ^ (2 * n + 1))

/-- π = 16 arctan(1/5) - 4 arctan(1/239): of an alternating series an even number of terms falls short
and an odd number overshoots. -/
def piEnclosure (p : Nat) : Ival :=
  let k := p / 9 + 2
  let j := p / 30 + 1
  ⟨16 * arctanSum 5 (2 * k) - 4 * arctanSum 239 (2 * j + 1),
    16 * arctanSum 5 (2 * k + 1) - 4 * arctanSum 239 (2 * j)⟩

/-- n! -/
def fact : Nat → Nat
  | 0 => 1
  | n + 1 => (n + 1) * fact n

/-- The first n terms of sin z = Σ (-1)^i z^(2i+1) / (2i+1)!. -/
def sinSum (z : Rat) : Nat → Rat
  | 0 => 0
  | n + 1 =>
    sinSum z n + z ^ (2 * n + 1) * mkRat (if n % 2 = 0 then 1 else -1) (fact (2 * n + 1))

/-- sin(π/2 · r) for 0 ≤ r ≤ 1. It is rational only at r = 0, 1/3 and 1, where it is exact. Elsewhere
the angle z lies in [a, b]; the series at a encloses sin a, and sin z exceeds sin a by at most b - a. -/
def quarterSin (p : Nat) (r : Rat) : Ival :=
  if r = 0 then .point 0
  else if r = 1 then .point 1
  else if r = mkRat 1 3 then .point (mkRat 1 2)
  else
    let π := piEnclosure p
    let a := roundDown p (π.lo * mkRat 1 2 * r)
    let b := roundUp p (π.hi * mkRat 1 2 * r)
    let k := p / 16 + 4
    ⟨max 0 (roundDown p (sinSum a (2 * k))), min 1 (roundUp p (sinSum a (2 * k + 1) + (b - a)))⟩

/-- The r in [0, 1] and the sign with which sin(2π · φ) is sin(π/2 · r) or its negative (true). -/
def signedQuarter (φ : Rat) : Rat × Bool :=
  let k := (4 * φ).floor
  let r := 4 * φ - k
  if k % 4 = 0 then (r, false)
  else if k % 4 = 1 then (1 - r, false)
  else if k % 4 = 2 then (r, true)
  else (1 - r, true)

/-- sin(2π · φ) for an exact φ, by quarter turns. -/
def sinPoint (p : Nat) (φ : Rat) : Ival :=
  let q := signedQuarter φ
  if q.2 then (quarterSin p q.1).neg else quarterSin p q.1

/-- sin(2π · φ) of an enclosed φ: at the middle, widened by 7 (more than 2π) times the half width. -/
def Ival.sinTurns (p : Nat) (φ : Ival) : Ival :=
  if φ.lo = φ.hi then sinPoint p φ.lo
  else
    let s := sinPoint p ((φ.lo + φ.hi) * mkRat 1 2)
    let d := 7 * ((φ.hi - φ.lo) * mkRat 1 2)
    ⟨max (-1) (s.lo - d), min 1 (s.hi + d)⟩

/-! ### 2^x -/

/-- The first n terms of ln 2 = Σ 2 / ((2i+1) · 3^(2i+1)). -/
def ln2Sum : Nat → Rat
  | 0 => 0
  | n + 1 => ln2Sum n + mkRat 2 ((2 * n + 1) * 3 ^ (2 * n + 1))

/-- ln 2: the terms are positive and those left out add up to at most 1 / 9^n. -/
def ln2Enclosure (p : Nat) : Ival :=
  let n := p / 3 + 2
  ⟨ln2Sum n, ln2Sum n + mkRat 1 (9 ^ n)⟩

/-- The first n terms of e^y = Σ y^i / i!. -/
def expSum (y : Rat) : Nat → Rat
  | 0 => 0
  | n + 1 => expSum y n + y ^ n * mkRat 1 (fact n)

/-- 2^k for a whole k. -/
def pow2 (k : Int) : Rat := if 0 ≤ k then mkRat (2 ^ k.toNat) 1 else mkRat 1 (2 ^ (-k).toNat)

/-- 2^x = 2^⌊x⌋ · e^(r ln 2) with r = x - ⌊x⌋: exact for a whole x; else the exponent y lies in [a, b]
with 0 ≤ a and b ≤ 1, and the series falls short by at most b^n (n+1) / (n! n). -/
def exp2Enclosure (p : Nat) (x : Rat) : Ival :=
  let k := x.floor
  let r := x - k
  if r = 0 then .point (pow2 k)
  else
    let l := ln2Enclosure p
    let a := roundDown p (l.lo * r)
    let b := roundUp p (l.hi * r)
    let n := p / 4 + 8
    (Ival.mk (roundDown p (expSum a n))
      (roundUp p (expSum b n + b ^ n * mkRat (n + 1) (fact n * n)))).scale (pow2 k)

/-! ### The rounding of an enclosed real -/

/-- Both ends round to one word, so every real between them does. -/
def Ival.settled (x : Ival) : Bool := toF32 x.lo == toF32 x.hi

/-- Of an enclosure that leaves two neighbouring words, the only number at which the word can change: 0,
or the middle between the values of the two ends' words. -/
def Ival.boundary (x : Ival) : Rat :=
  if x.lo ≤ 0 ∧ 0 ≤ x.hi then 0 else (f32 (toF32 x.lo) + f32 (toF32 x.hi)) * mkRat 1 2

end Sys2Proof.Machine
end

