-- ==== Sys2Proof/Machine/Exact.lean ====
section
/-! DEFINITION. Exact numbers beside enclosures, so that a frame value that is exactly 0 or exactly a tie
is rounded as 00_scope.md R8 says: no enclosure tells such a value from its neighbours (log entry 5). -/

namespace Sys2Proof.Machine

/-- fract(q) = q - floor(q) (00_scope.md R10). -/
def fractRat (q : Rat) : Rat := q - q.floor

/-! ### Exact numbers -/

/-- The number coef · 2^two · e(turn), where e(θ) = cos 2πθ + i · sin 2πθ. -/
structure Term where
  coef : Rat
  two : Rat
  turn : Rat
  deriving DecidableEq, Repr

/-- The sum of its terms. A sum made by the operations below has 0 ≤ two < 1, 0 ≤ turn < 1, no term
twice and no term with the coefficient 0. -/
abbrev Exact := List Term

/-- A term with its two exponents reduced: 2^⌊two⌋ is taken into the coefficient, and e has period 1. -/
def Term.reduced (c a θ : Rat) : Term := ⟨c * pow2 a.floor, fractRat a, fractRat θ⟩

/-- A sum with one term more. -/
def Exact.insert (t : Term) : Exact → Exact
  | [] => if t.coef = 0 then [] else [t]
  | u :: x =>
    if u.two = t.two ∧ u.turn = t.turn then
      if u.coef + t.coef = 0 then x else { u with coef := u.coef + t.coef } :: x
    else u :: Exact.insert t x

def Exact.rational (q : Rat) : Exact := Exact.insert ⟨q, 0, 0⟩ []

def Exact.add (x y : Exact) : Exact := y.foldr Exact.insert x

def Exact.scale (x : Exact) (q : Rat) : Exact :=
  x.foldr (fun t => Exact.insert { t with coef := t.coef * q }) []

def Exact.sub (x y : Exact) : Exact := x.add (y.scale (-1))

def Term.mul (t u : Term) : Term := Term.reduced (t.coef * u.coef) (t.two + u.two) (t.turn + u.turn)

def Exact.mul (x y : Exact) : Exact :=
  x.foldr (fun t acc => y.foldr (fun u => Exact.insert (t.mul u)) acc) []

/-- 2^x. -/
def Exact.exp2 (x : Rat) : Exact := Exact.insert (Term.reduced 1 x 0) []

/-- sin(2πφ) = (e(φ - 1/4) + e(1/4 - φ)) / 2. -/
def Exact.sinTurns (φ : Rat) : Exact :=
  Exact.insert (Term.reduced (mkRat 1 2) 0 (φ - mkRat 1 4))
    (Exact.insert (Term.reduced (mkRat 1 2) 0 (mkRat 1 4 - φ)) [])

/-! ### The test for 0 -/

/-- `n` with every factor q taken out, and how many there were, up to the fuel. -/
def stripFactor (q : Nat) : Nat → Nat → Nat × Nat
  | 0, n => (n, 0)
  | fuel + 1, n =>
    if n % q = 0 then
      let (m, k) := stripFactor q fuel (n / q)
      (m, k + 1)
    else (n, 0)

/-- The A in [0, 1) whose denominator is a power of the prime q, such that that of θ - A has no factor
q. With θ's denominator d = q^k · m, it is θ times the number that is 1 modulo q^k and 0 modulo m, which
is m^((q-1) · q^(k-1)) modulo d. -/
def primePart (q : Nat) (θ : Rat) : Rat :=
  let d := θ.den
  let (m, k) := stripFactor q (Nat.log2 d + 1) d
  if k = 0 then 0
  else fractRat (mkRat (θ.num * ((· ^ q % d)^[k - 1] (m ^ (q - 1) % d) : Nat)) d)

/-- The primes up to 125, the number of terms of the longest sum a frame gives (log entry 5). -/
def primes : List Nat :=
  [2, 3, 5, 7, 11, 13, 17, 19, 23, 29, 31, 37, 41, 43, 47, 53, 59, 61, 67, 71, 73, 79, 83, 89, 97, 101, 103,
    107, 109, 113]

/-- Whether Σ c · e(θ), over the pairs (c, θ), is shown to be 0, one prime q of the list after another.
The sum is Σ e(A) · S_A over the q-parts A. The only relations over the fields that hold the S_A are
those of the q-th roots of unity: of each class of q-parts that differ by multiples of 1/q, either all q
are there, and then the S_A must be equal, or each S_A must be 0. -/
def vanishes : List Nat → List (Rat × Rat) → Bool
  | [], l => l.all fun r => ((l.filter (·.2 = r.2)).map (·.1)).sum == 0
  | q :: qs, l =>
    let tagged := l.map fun r => (primePart q r.2, r)
    let parts := (tagged.map (·.1)).eraseDups
    let sumAt (A : Rat) : List (Rat × Rat) :=
      (tagged.filter (·.1 = A)).map fun r => (r.2.1, fractRat (r.2.2 - A))
    parts.all fun A =>
      let alike := parts.filter fun B => fractRat ((q : Rat) * B) == fractRat ((q : Rat) * A)
      let first := alike.headD A
      if alike.length = q then
        A == first || vanishes qs (sumAt A ++ (sumAt first).map fun r => (-r.1, r.2))
      else vanishes qs (sumAt A)

/-- The primes of the list that divide a denominator; no other prime changes anything. -/
def primesOf (l : List (Rat × Rat)) : List Nat := primes.filter fun q => l.any fun r => r.2.den % q = 0

/-- Whether an exact number is shown to be 0: for each power of 2, its sum of roots of unity. -/
def Exact.isZero (x : Exact) : Bool :=
  (x.map (·.two)).eraseDups.all fun a =>
    let l := (x.filter (·.two = a)).map fun t => (t.coef, t.turn)
    vanishes (primesOf l) l

/-! ### Enclosures with the exact number where it is known -/

/-- A real, enclosed, with its exact value where that is kept. -/
structure Tracked where
  ival : Ival
  exact : Option Exact
  deriving DecidableEq, Repr

/-- An enclosure of no width is its own exact value. -/
def Tracked.of (i : Ival) (e : Option Exact) : Tracked :=
  ⟨i, if i.lo = i.hi then some (.rational i.lo) else e⟩

/-- An operation on two enclosures and on two exact numbers. -/
def Tracked.map₂ (f : Ival → Ival → Ival) (g : Exact → Exact → Exact) (x y : Tracked) : Tracked :=
  .of (f x.ival y.ival)
    (match x.exact, y.exact with
    | some a, some b => some (g a b)
    | _, _ => none)

def Tracked.scale (x : Tracked) (q : Rat) : Tracked := .of (x.ival.scale q) (x.exact.map (·.scale q))

/-- A number whose enclosure reaches on both sides of `c`, and that is shown to be `c`, as `c` itself. -/
def Tracked.resolve (x : Tracked) (c : Rat) : Tracked :=
  if x.ival.lo < c ∧ c < x.ival.hi ∧ x.exact.any fun e => (e.sub (.rational c)).isZero then
    .of (.point c) none
  else x

/-- The absolute value, exact where the sign is told. -/
def Tracked.abs (x : Tracked) : Tracked :=
  let x := x.resolve 0
  if 0 ≤ x.ival.lo then x else if x.ival.hi ≤ 0 then x.scale (-1) else .of x.ival.abs none

/-- clamp(x, lo, hi): the number itself where it is told to lie between the bounds. -/
def Tracked.clamp (x : Tracked) (lo hi : Rat) : Tracked :=
  let x := (x.resolve lo).resolve hi
  if lo ≤ x.ival.lo ∧ x.ival.hi ≤ hi then x else .of (x.ival.clamp lo hi) none

/-- fract(f · τ), exact where the ends of the enclosure have one floor. -/
def Tracked.phase (f : Tracked) (τ : Rat) : Tracked :=
  let y := f.scale τ
  .of (f.ival.phase τ)
    (if y.ival.lo.floor = y.ival.hi.floor then y.exact.map (·.sub (.rational y.ival.lo.floor)) else none)

/-- The choice of R104, exact where the phase is told apart from 1/2. -/
def Tracked.belowHalf (φ a b : Tracked) : Tracked :=
  if φ.ival.hi < mkRat 1 2 then a
  else if mkRat 1 2 ≤ φ.ival.lo then b
  else .of (φ.ival.belowHalf a.ival b.ival) none

/-- An exact value, kept only if `keep`. -/
def keepIf (keep : Bool) (e : Exact) : Option Exact := if keep then some e else none

/-- The model's arithmetic: enclosures with sin and 2^x to p bits, and beside them, if `keep`, the exact
numbers; the sine of a phase that is no rational number has none (log entry 5). -/
def Numerics.tracked (p : Nat) (keep : Bool) : Numerics Tracked where
  exact q := .of (.point q) none
  add := .map₂ .add .add
  sub := .map₂ .sub .sub
  mul := .map₂ .mul .mul
  abs := .abs
  divide x q := x.scale q⁻¹
  clamp := .clamp
  phase := .phase
  belowHalf := .belowHalf
  sinTurns φ :=
    .of (φ.ival.sinTurns p)
      (if φ.ival.lo = φ.ival.hi then keepIf keep (.sinTurns φ.ival.lo) else none)
  exp2 x := .of (exp2Enclosure p x) (keepIf keep (.exp2 x))

/-! ### The word of a real -/

/-- `toF32` of a tracked real, where it is settled: by the two ends of the enclosure, or because the real
is exactly the number at which the word changes (a tie, or 0). -/
def Tracked.word (x : Tracked) : Option Word :=
  if x.ival.settled then some (toF32 x.ival.lo)
  else if x.exact.any fun e => (e.sub (.rational x.ival.boundary)).isZero then
    some (toF32 x.ival.boundary)
  else none

/-- The word of a real that `enc` tracks at every precision, at p bits: from the enclosure alone, else
with the exact numbers. -/
def wordAt (enc : Nat → Bool → Tracked) (p : Nat) : Option Word :=
  match (enc p false).word with
  | some w => some w
  | none => (enc p true).word

/-- `toF32` of a real that `enc` tracks at every precision (R8): from the first of p, 2p, 4p, … that
settles it. Where none of `n` precisions does, the word of one of the last enclosure's two ends, by a
free choice (log entry 5). -/
def roundTracked (enc : Nat → Bool → Tracked) : Nat → Nat → Word
  | 0, p =>
    let x := (enc p false).ival
    if Config.unresolvedLow x.lo x.hi then toF32 x.lo else toF32 x.hi
  | n + 1, p =>
    match wordAt enc p with
    | some w => w
    | none => roundTracked enc n (2 * p)

end Sys2Proof.Machine
end

