-- ==== Sys2Proof/Machine/Operands.lean ====
section
/-! DEFINITION. What the commands make of their operands: the setters' clamps (44_control.md R242), the
counts' clamps (R227, R233), the sample rate's check (R236) and the note-number conversion (R241). -/

namespace Sys2Proof.Machine

/-- FREQ_CLAMP(W) (R242). -/
def freqClamp (w : Word) : Rat :=
  if isNaN w then 0
  else if w = posInf then Config.freqMax
  else if w = negInf then 0
  else clampRat (f32 w) 0 Config.freqMax

/-- DUR_CLAMP(W, dflt) (R242). -/
def durClamp (w dflt : Word) : Rat :=
  if isNaN w then f32 dflt
  else if w = posInf then Config.durMax
  else if w = negInf then f32 Config.epsDur
  else clampRat (f32 w) (f32 Config.epsDur) Config.durMax

/-- LEVEL_CLAMP(W, lo, hi, dflt) (R242). -/
def levelClamp (w : Word) (lo hi : Rat) (dflt : Word) : Rat :=
  if isNaN w then f32 dflt
  else if w = posInf then hi
  else if w = negInf then lo
  else clampRat (f32 w) lo hi

/-- The detune of a finite operand, in [0, 100] cents (R228). -/
def detuneClamp (w : Word) : Rat := clampRat (f32 w) 0 Config.dMax

/-- clamp(a, lo, hi) of a count operand (R227, R233). -/
def countClamp (a : Byte) (lo hi : Nat) : Nat := min (max a.toNat lo) hi

/-- STREAM_START accepts a finite rate above 0 (R236). -/
def rateAccepted (w : Word) : Bool := isFinite w && 0 < f32 w

/-- NOTE_FREQ(n) = 440 · 2^((n - 69)/12) Hz (R241). -/
def noteFreq {α : Type} (A : Numerics α) (n : Byte) : α :=
  A.mul (A.exact Config.a4Freq) (A.exp2 (mkRat ((n.toNat : Int) - Config.a4Note) 12))

/-- The word NOTE_ON stores: toF32(clamp(NOTE_FREQ(n), 0, FREQ_MAX)) (R221). -/
def noteWord (n : Byte) : Word :=
  roundTracked
    (fun p keep =>
      let A := Numerics.tracked p keep
      A.clamp (noteFreq A n) 0 Config.freqMax)
    Config.precisionSteps Config.firstPrecision

end Sys2Proof.Machine
end

