-- ==== Sys2Proof/Machine/Envelope.lean ====
section
/-! DEFINITION. The ADSR Envelope controller (42_envelope.md R150 to R160), on exact rationals. -/

namespace Sys2Proof.Machine

/-- S(u), the smootherstep (R150). -/
def smootherstep (u : Rat) : Rat :=
  let c := clampRat u 0 1
  c * c * c * (c * (c * 6 - 15) + 10)

/-- VAL(E), with the clamped durations a, d and r (R151). -/
def envValue (e : Envelope) (a d r : Rat) : Rat :=
  match e.stage with
  | .idle => 0
  | .attack => e.origin + (1 - e.origin) * smootherstep (e.elapsed / a)
  | .decay => 1 + (e.susSnap - 1) * smootherstep (e.elapsed / d)
  | .sustain => e.susSnap
  | .release => e.origin * (1 - smootherstep (e.elapsed / r))

/-- ENV_END(sel), with none for ANY (R153). -/
def envEnd (sel : Option Byte) (e : Envelope) : Envelope :=
  if e.stage.triggered && (sel == none || sel == some e.note) then
    { e with origin := e.value, stage := .release, elapsed := 0 }
  else e

/-- ENV_START(tok, sus) (R152): a no-op for the note that is held; else an implicit end of a held note,
then Attack from the current value. -/
def envStart (tok : Byte) (sus : Rat) (e : Envelope) : Envelope :=
  if e.stage.triggered && e.note == tok then e
  else
    let e := if e.stage.triggered then envEnd none e else e
    { e with
      origin := e.value, stage := .attack, elapsed := 0, note := tok, noteValid := true,
      susSnap := sus }

/-- A duration clamped below at use (R155). -/
def atLeastEps (x : Rat) : Rat := max x (f32 Config.epsDur)

/-- The three transitions of one update, tried in the order Attack, Decay, Release (R154, R156). -/
def attackToDecay (a : Rat) (e : Envelope) : Envelope :=
  if e.stage = .attack ∧ a ≤ e.elapsed then { e with elapsed := e.elapsed - a, stage := .decay } else e

def decayToSustain (d : Rat) (e : Envelope) : Envelope :=
  if e.stage = .decay ∧ d ≤ e.elapsed then { e with elapsed := 0, stage := .sustain } else e

def releaseToIdle (r : Rat) (e : Envelope) : Envelope :=
  if e.stage = .release ∧ r ≤ e.elapsed then
    { e with stage := .idle, elapsed := 0, origin := 0, note := 0#8, noteValid := false }
  else e

/-- ENV_UPDATE(dt, Ap, Dp, Rp) (R154). -/
def envUpdate (dt ap dp rp : Rat) (e : Envelope) : Envelope :=
  let a := atLeastEps ap
  let d := atLeastEps dp
  let r := atLeastEps rp
  match e.stage with
  | .idle => { e with value := 0, elapsed := 0 }
  | .sustain => { e with value := e.susSnap }
  | .attack | .decay | .release =>
    let e := releaseToIdle r (decayToSustain d (attackToDecay a { e with elapsed := e.elapsed + dt }))
    { e with value := envValue e a d r }

end Sys2Proof.Machine
end

