-- ==== Sys2Proof/Machine/Ops.lean ====
section
/-! DEFINITION. The named operations over memory, conditions, the event queue, the ports and the session
that the meanings share. -/

namespace Sys2Proof.Machine

/-! ### The output buffer space (20_memory.md R63, R66, R76) -/

/-- Canonical form: addresses strictly rising. -/
abbrev Memory.wf (m : Memory) : Prop := m.Pairwise (fun c d => c.1 < d.1)

/-- The byte last written at an address; none where the block has written none (log entry 9). -/
def Memory.read (a : Nat) : Memory → Option Byte
  | [] => none
  | c :: m => if c.1 = a then some c.2 else Memory.read a m

/-- Writing one byte, in its place by address. -/
def Memory.write (a : Nat) (b : Byte) : Memory → Memory
  | [] => [(a, b)]
  | c :: m => if a < c.1 then (a, b) :: c :: m else if a = c.1 then (a, b) :: m else c :: Memory.write a b m

/-- Writing bytes at rising addresses. -/
def Memory.writeBytes (a : Nat) : List Byte → Memory → Memory
  | [], m => m
  | b :: bs, m => Memory.writeBytes (a + 1) bs (Memory.write a b m)

/-- MemWrite(a, 4, w): the engine's only memory write, little-endian (R63, R66). -/
def Memory.writeWord (a : Nat) (w : Word) (m : Memory) : Memory := Memory.writeBytes a (bytesOfWord w) m

/-- The word at four bytes, none if one of them was never written. -/
def Memory.readWord (a : Nat) (m : Memory) : Option Word :=
  match Memory.read a m, Memory.read (a + 1) m, Memory.read (a + 2) m, Memory.read (a + 3) m with
  | some b0, some b1, some b2, some b3 => some (wordOfBytes b0 b1 b2 b3)
  | _, _, _, _ => none

/-- `n` zero words from `a` on (43_engine.md R191, R199). -/
def Memory.writeZeros (a : Nat) : Nat → Memory → Memory
  | 0, m => m
  | n + 1, m => Memory.writeWord (a + 4 * n) 0#32 (Memory.writeZeros a n m)

/-- The address frame j of the FILL in progress is written to (20_memory.md R64). -/
def frameAddress (f : FillCtx) (j : Word) : Nat := f.fbuf.toNat + 4 * j.toNat

/-- Whether an address belongs to the buffer of a FILL in progress (R76). -/
def FillCtx.owns (f : FillCtx) (a : Nat) : Bool :=
  f.fip && f.fbuf.toNat ≤ a && a < f.fbuf.toNat + 4 * f.fn.toNat

/-- What the host would read at a byte address: in a buffer in flight any value (R76, 93 I14), else the
byte of memory (log entry 9). No step of the block reads memory. -/
def State.hostByte (s : State) (a : Nat) : Option Byte :=
  if s.fill.owns a then some (Config.inFlightByte s.n s.fill.fj a) else Memory.read a s.mem

/-! ### Conditions: the block's only exceptions (60_exceptions.md R261, R263) -/

/-- `raise C(code)`: the STATUS bit is set, LAST_ERR holds the code, and control goes on (R261). -/
def State.raise (s : State) (c : Condition) : State :=
  { s with status := s.status.record c, lastErr := c.code }

/-- The acknowledgement of conditions: STATUS bits 1 to 5 and LAST_ERR are cleared (R264, 44_control.md
R239). The block has no other return from an exception. -/
def State.clearConditions (s : State) : State :=
  { s with status := s.status.clearSticky, lastErr := 0#8 }

/-- A malformed control transaction records its condition and does nothing else (30_encoding.md R85). -/
def execMalformed (c : BadCommand) (s : State) : Host.Outcome State Fault Refusal :=
  .next (s.raise (conditionOf c))

/-! ### The event queue (44_control.md R240) -/

/-- `enqueue(e)`: appended at the tail, or dropped with EVQ_OVERFLOW when the queue is full (R240). -/
def State.enqueue (s : State) (e : NoteEvent) : State :=
  if s.evq.length = Config.evqDepth then s.raise .evqOverflow else { s with evq := s.evq ++ [e] }

/-- A note event of a command: enqueued while a session runs, else discarded with no condition (R220). -/
def State.noteEvent (s : State) (e : NoteEvent) : State :=
  if s.status.running then s.enqueue e else s

/-! ### The session (44_control.md R236, R237) -/

/-- The end of a session: RUNNING is cleared and the queue emptied (R237, 43_engine.md R199). -/
def State.endSession (s : State) : State :=
  { s with status := { s.status with running := false }, evq := [] }

/-! ### The ports (30_encoding.md R80; log entries 1 and 2) -/

/-- The next input, taken off the list. -/
def State.nextInput (s : State) : Option (Input × State) :=
  match s.inputs with
  | [] => none
  | i :: rest => some (i, { s with inputs := rest })

/-- A transaction that arrives at its port before everything still to come. -/
def State.arrive (s : State) (t : Transaction) : State := { s with inputs := .port t :: s.inputs }

/-- A reply to CP, after all earlier ones (44_control.md R220). -/
def State.reply (s : State) (w : Word) : State := { s with replies := s.replies ++ [w] }

/-- The inputs of a FILL that no command interrupts while a session runs: the request, one turn for each
frame and one for the buffer end (43_engine.md R201). -/
def uninterruptedFill (fn fbuf : Word) : List Input :=
  .port (.audio fn fbuf) :: List.replicate (fn.toNat + 1) .engineTurn

end Sys2Proof.Machine
end

