-- ==== Sys2Proof/Machine/Oscillator.lean ====
section
/-! DEFINITION. The Oscillator (40_oscillator.md R100 to R114), in any arithmetic. -/

namespace Sys2Proof.Machine

/-- RAW(kind, φ, aa) (R103 to R106). -/
def raw {α : Type} (A : Numerics α) (kind : WaveKind) (φ : α) (aa : Bool) : α :=
  match kind with
  | .sine => A.sinTurns φ
  | .triangle => A.sub (A.exact 1) (A.abs (A.sub (A.mul (A.exact 2) φ) (A.exact 1)))
  | .square =>
    let amp : Rat := if aa then Config.sqAaAmpl else 1
    A.belowHalf φ (A.exact amp) (A.exact (-amp))
  | .sawtooth => A.sub (A.mul (A.exact 2) φ) (A.exact 1)

/-- One sub-sample: the low-pass filter's new state p (R108), smoothed (R109) and added up. -/
def filterStep {α : Type} (A : Numerics α) (al st : Rat) (pa : α × α) (x : α) : α × α :=
  let p := A.add pa.1 (A.mul (A.exact al) (A.sub x pa.1))
  let y := A.clamp (A.mul p (A.sub (A.exact 1) (A.mul (A.abs p) (A.exact st)))) (-1) 1
  (p, A.add pa.2 y)

/-- The raw value at sub-step k, at time t + k / (R · sr) (R107). -/
def subSample {α : Type} (A : Numerics α) (kind : WaveKind) (f : α) (t sr : Rat) (r k : Nat) : α :=
  raw A kind (A.phase f (t + (k : Rat) / ((r : Rat) * sr))) true

/-- OSC_SAMPLE(kind, f, t, sr, R, al, st) (R100): direct mode for R = 1 (R114), else the average of the
filtered and smoothed sub-samples (R107 to R110). Nothing is kept from call to call (R111). -/
def oscSample {α : Type} (A : Numerics α) (kind : WaveKind) (f : α) (t sr : Rat) (r : Nat)
    (al st : Rat) : α :=
  if r = 1 then raw A kind (A.phase f t) false
  else
    let x := subSample A kind f t sr r
    A.divide (((List.range r).map x).foldl (filterStep A al st) (x 0, A.exact 0)).2 r

end Sys2Proof.Machine
end

