-- ==== Sys2Proof/Machine/Unison.lean ====
section
/-! DEFINITION. The Unison Voice Mixer (41_unison.md R130 to R137), in any arithmetic, and the value of
a sounding frame (43_engine.md R194). -/

namespace Sys2Proof.Machine

/-- VALIDATE_UNISON(V, D) (R131). -/
def validateUnison (v : Nat) (d : Word) : Nat × Rat :=
  if isFinite d then (min (max v Config.vMin) Config.vMax, clampRat (f32 d) 0 Config.dMax) else (1, 0)

/-- The offset of voice i of V, in cents, for V above 1 (R133). -/
def voiceOffset (v : Nat) (d : Rat) (i : Nat) : Rat := -d / 2 + (i : Rat) * d / ((v : Rat) - 1)

/-- MIX_VOICES(f, kind, V, D, t, sr, R, al, st) (R130): one voice at f itself (R132), else the mean of
the voices at f · 2^(o/1200) (R133 to R135). -/
def mixVoices {α : Type} (A : Numerics α) (f : α) (kind : WaveKind) (v : Nat) (d : Word) (t sr : Rat)
    (r : Nat) (al st : Rat) : α :=
  let (v, d) := validateUnison v d
  if v = 1 then oscSample A kind f t sr r al st
  else
    let voice (i : Nat) : α :=
      oscSample A kind (A.mul f (A.exp2 (voiceOffset v d i / 1200))) t sr r al st
    A.divide (((List.range v).map voice).foldl A.add (A.exact 0)) v

/-- The operands of a sounding frame (43_engine.md R194), as exact numbers and register words. -/
structure FrameOperands where
  /-- E.value after the frame's update. -/
  gain : Rat
  /-- f32(x[LAST_FREQ]). -/
  freq : Rat
  kind : WaveKind
  voices : Nat
  detune : Word
  /-- N / sr. -/
  time : Rat
  /-- sr. -/
  rate : Rat
  osr : Nat
  alpha : Rat
  strength : Rat
  deriving DecidableEq, Repr

/-- out = E.value · MIX_VOICES(…) (43_engine.md R194). -/
def sampleOut {α : Type} (A : Numerics α) (o : FrameOperands) : α :=
  A.mul (A.exact o.gain)
    (mixVoices A (A.exact o.freq) o.kind o.voices o.detune o.time o.rate o.osr o.alpha o.strength)

/-- The reference word of a sounding frame, toF32(out) (43_engine.md R194, R197; log entry 5). -/
def referenceWord (o : FrameOperands) : Word :=
  roundTracked (fun p keep => sampleOut (Numerics.tracked p keep) o) Config.precisionSteps
    Config.firstPrecision

/-- What one realization of the block makes of NUMERICS and TOL (00_scope.md R5, R8; log entry 7): the
output word it gives a sounding frame, and the most by which such a word may differ from the reference's
(`Realization.Conforms`). -/
structure Realization where
  /-- NUMERICS, as the word it makes of a frame's operands. -/
  word : FrameOperands → Word
  /-- TOL. -/
  tol : Rat

/-- The reference semantics itself, with TOL = 0 (93 I12). -/
def Realization.reference : Realization where
  word := referenceWord
  tol := 0

end Sys2Proof.Machine
end

