-- ==== Sys2Proof/Machine/Engine.lean ====
section
/-! DEFINITION. The Synthesis Engine (43_engine.md R190 to R204): the meaning of FILL, and the engine's
internal steps FRAME and BUFFER_END. -/

namespace Sys2Proof.Machine

/-! ### BUFFER_START (R192) -/

/-- The snapshot draw of this buffer: the next of the list, or fresh for every group once the list is
used up (20_memory.md R68; log entry 3). -/
def State.nextDraw (s : State) : Draw :=
  match s.draws with
  | [] => { freq := true, voice := true, envp := true, qual := true }
  | d :: _ => d

/-- Each group of SNAP is a fresh copy of PARAM or is left unchanged (R68). -/
def snapshot (d : Draw) (param snap : Params) : Params where
  freqGroup := if d.freq then param.freqGroup else snap.freqGroup
  voiceGroup := if d.voice then param.voiceGroup else snap.voiceGroup
  envpGroup := if d.envp then param.envpGroup else snap.envpGroup
  qualGroup := if d.qual then param.qualGroup else snap.qualGroup

/-- APPLY_EVENT (R193), with the sustain level of this buffer's snapshot. -/
def applyEvent (sus : Rat) (e : Envelope) : NoteEvent → Envelope
  | .start tok => envStart tok sus e
  | .stop tok => envEnd (some tok) e
  | .stopAny => envEnd none e

/-- LAST_FREQ takes a positive snapshot frequency (R192, R195). -/
def holdFreq (last snapFreq : Word) : Word := if 0 < f32 snapFreq then snapFreq else last

/-- BUFFER_START() (R192): the snapshot, the held frequency, then every queued event in order. -/
def bufferStart (s : State) : State :=
  let snap := snapshot s.nextDraw s.param s.snap
  { s with
    snap := snap
    lastFreq := holdFreq s.lastFreq snap.freqGroup.freq
    env := s.evq.foldl (applyEvent (f32 snap.envpGroup.sustain)) s.env
    evq := []
    draws := s.draws.tail }

/-! ### FRAME (R194) -/

/-- The envelope's update of this frame: dt = 1/sr, the durations of SNAP.ENVP (R194, R202). -/
def frameEnvelope (s : State) : Envelope :=
  envUpdate (1 / f32 s.srate) (f32 s.snap.envpGroup.attack) (f32 s.snap.envpGroup.decay)
    (f32 s.snap.envpGroup.release) s.env

/-- The operands of MIX_VOICES and the gain, for the updated envelope `e` (R194). -/
def frameOperands (s : State) (e : Envelope) : FrameOperands where
  gain := e.value
  freq := f32 s.lastFreq
  kind := s.snap.voiceGroup.wave
  voices := s.snap.voiceGroup.voices.toNat
  detune := s.snap.voiceGroup.detune
  time := (s.n.toNat : Rat) / f32 s.srate
  rate := f32 s.srate
  osr := s.snap.qualGroup.osr.toNat
  alpha := f32 s.snap.qualGroup.alpha
  strength := f32 s.snap.qualGroup.strength

/-- The frame's word: +0.0 when E is Idle after its update or no positive frequency is held (R196), else
the word the realization makes of the operands (R194, R197). -/
def frameWord (R : Realization) (s : State) (e : Envelope) : Word :=
  if e.stage = .idle ∨ f32 s.lastFreq = 0 then 0#32 else R.word (frameOperands s e)

/-- The state after a FRAME that gave the word `w` with the updated envelope `e` (R194, R198, R199). -/
def frameNext (s : State) (e : Envelope) (w : Word) : State :=
  { s with
    env := e
    mem := Memory.writeWord (frameAddress s.fill s.fill.fj) w s.mem
    n := s.n + 1#32
    fill :=
      { s.fill with fj := s.fill.fj + 1#32, badBuf := s.fill.badBuf || !isFinite w } }

/-- FRAME(j) for j = FILLCTX.FJ (R194). -/
def frame (R : Realization) (s : State) : Host.Outcome State Fault Refusal :=
  if rateAccepted s.srate then
    .next (frameNext s (frameEnvelope s) (frameWord R s (frameEnvelope s)))
  else .fault .rateNotPositive

/-! ### BUFFER_END (R199) -/

/-- A bad buffer is rewritten as silence, with NONFINITE_OUTPUT (R199). -/
def silenceBadBuffer (s : State) : State :=
  if s.fill.badBuf then
    { s with mem := Memory.writeZeros s.fill.fbuf.toNat s.fill.fn.toNat s.mem }.raise .nonfiniteOutput
  else s

/-- BUFFER_END() (R199): then FIP and BADBUF are cleared and a deferred stop takes effect. -/
def bufferEnd (s : State) : State :=
  let s := silenceBadBuffer s
  let stop := s.fill.stopPend
  let s := { s with fill := { s.fill with fip := false, badBuf := false, stopPend := false } }
  if stop then s.endSession else s

/-- One step of EN on the FILL in progress: the next FRAME, or the buffer end after the last one (R190).
With no FILL in progress the engine has no step and the state stays (log entry 13). -/
def engineStep (R : Realization) (s : State) : Host.Outcome State Fault Refusal :=
  if s.fill.fip then
    if s.fill.fj.toNat < s.fill.fn.toNat then frame R s else .next (bufferEnd s)
  else .next s

/-! ### FILL (R190) -/

/-- FILL_STOPPED(FN, FBUF) (R191): silence in one step, with FILL_STOPPED recorded. -/
def fillStopped (fn fbuf : Word) (s : State) : State :=
  { s with mem := Memory.writeZeros fbuf.toNat fn.toNat s.mem }.raise .fillStopped

/-- FILLCTX at the start of a FILL (R190). -/
def FillCtx.begin (f : FillCtx) (fn fbuf : Word) : FillCtx :=
  { f with fip := true, fn := fn, fj := 0#32, fbuf := fbuf, badBuf := false }

/-- FILL (R190): its first step. A misaligned FBUF (20_memory.md R64) and a second FILL in progress
(70_reset_and_hazards.md R293) are refused; log entry 11. -/
def execFill (fn fbuf : Word) (s : State) : Host.Outcome State Fault Refusal :=
  if fbuf.toNat % 4 ≠ 0 then .refused .fillMisaligned
  else if s.fill.fip then .refused .fillOutstanding
  else if s.status.running then .next (bufferStart { s with fill := s.fill.begin fn fbuf })
  else .next (fillStopped fn fbuf s)

end Sys2Proof.Machine
end

