-- ==== Sys2Proof/Machine/Notes.lean ====
section
/-! DEFINITION. The note-event commands (44_control.md R221 to R224). -/

namespace Sys2Proof.Machine

/-- NOTE_OFF (R222). -/
def execNoteOff (note : Byte) (s : State) : Host.Outcome State Fault Refusal :=
  .next (s.noteEvent (.stop note))

/-- NOTE_ON (R221): with velocity 0 it has NOTE_OFF's effect; else FREQ takes the note's frequency and the event
is queued while a session runs. -/
def execNoteOn (note vel : Byte) (s : State) : Host.Outcome State Fault Refusal :=
  if vel = 0#8 then .next (s.noteEvent (.stop note))
  else
    .next
      ({ s with param := { s.param with freqGroup := { freq := noteWord note } } }.noteEvent
        (.start note))

/-- GATE_ON (R223). -/
def execGateOn (tok : Byte) (s : State) : Host.Outcome State Fault Refusal :=
  .next (s.noteEvent (.start tok))

/-- GATE_OFF (R224). -/
def execGateOff (s : State) : Host.Outcome State Fault Refusal :=
  .next (s.noteEvent .stopAny)

end Sys2Proof.Machine
end

