-- ==== Sys2Proof/Machine/Registers.lean ====
section
/-! DEFINITION. Register access and status (44_control.md R238, R239; 20_memory.md R61, R62). -/

namespace Sys2Proof.Machine

/-- The word of a register (R61, R238); a reserved index reads 0 (R62). -/
def readReg (idx : Byte) (s : State) : Word :=
  match idx.toNat with
  | 0x00 => s.param.freqGroup.freq
  | 0x01 => (waveCode s.param.voiceGroup.wave).zeroExtend 32
  | 0x02 => s.param.voiceGroup.voices.zeroExtend 32
  | 0x03 => s.param.voiceGroup.detune
  | 0x04 => s.param.envpGroup.attack
  | 0x05 => s.param.envpGroup.decay
  | 0x06 => s.param.envpGroup.sustain
  | 0x07 => s.param.envpGroup.release
  | 0x08 => s.param.qualGroup.osr.zeroExtend 32
  | 0x09 => s.param.qualGroup.alpha
  | 0x0A => s.param.qualGroup.strength
  | 0x0B => s.srate
  | 0x0C => statusWord s.status s.fill.stopPend
  | 0x0D => s.lastErr.zeroExtend 32
  | 0x0E => envStatWord s.env
  | 0x0F => toF32 s.env.value
  | 0x10 => s.n
  | 0x11 => s.lastFreq
  | 0x12 => BitVec.ofNat 32 s.evq.length
  | 0x13 => Config.idWord
  | _ => 0x00000000#32

/-- GET_REG (R238): one reply word and no other effect. -/
def execGetReg (idx : Byte) (s : State) : Host.Outcome State Fault Refusal :=
  .next (s.reply (readReg idx s))

/-- CLR_STATUS (R239). -/
def execClrStatus (s : State) : Host.Outcome State Fault Refusal :=
  .next s.clearConditions

end Sys2Proof.Machine
end

