-- ==== Sys2Proof/Machine/Setters.lean ====
section
/-! DEFINITION. The parameter setters (44_control.md R225 to R235). Each writes registers of one field
group of PARAM and nothing else. -/

namespace Sys2Proof.Machine

def State.setFreqGroup (s : State) (g : FreqGroup) : State :=
  { s with param := { s.param with freqGroup := g } }

def State.setVoiceGroup (s : State) (g : VoiceGroup) : State :=
  { s with param := { s.param with voiceGroup := g } }

def State.setEnvpGroup (s : State) (g : EnvpGroup) : State :=
  { s with param := { s.param with envpGroup := g } }

def State.setQualGroup (s : State) (g : QualGroup) : State :=
  { s with param := { s.param with qualGroup := g } }

/-- SET_FREQ (R225). -/
def execSetFreq (w : Word) (s : State) : Host.Outcome State Fault Refusal :=
  .next (s.setFreqGroup { freq := toF32 (freqClamp w) })

/-- SET_WAVE (R226). -/
def execSetWave (kind : Byte) (s : State) : Host.Outcome State Fault Refusal :=
  .next (s.setVoiceGroup { s.param.voiceGroup with wave := waveOfCode (kind.extractLsb' 0 2) })

/-- SET_VOICES (R227). -/
def execSetVoices (count : Byte) (s : State) : Host.Outcome State Fault Refusal :=
  .next
    (s.setVoiceGroup
      { s.param.voiceGroup with voices := BitVec.ofNat 4 (countClamp count Config.vMin Config.vMax) })

/-- SET_DETUNE (R228): a non-finite operand falls back to one voice with no detune. -/
def execSetDetune (w : Word) (s : State) : Host.Outcome State Fault Refusal :=
  if isFinite w then
    .next (s.setVoiceGroup { s.param.voiceGroup with detune := toF32 (detuneClamp w) })
  else .next (s.setVoiceGroup { s.param.voiceGroup with voices := 1#4, detune := toF32 0 })

/-- SET_ATTACK (R229). -/
def execSetAttack (w : Word) (s : State) : Host.Outcome State Fault Refusal :=
  .next
    (s.setEnvpGroup { s.param.envpGroup with attack := toF32 (durClamp w Config.attackReset) })

/-- SET_DECAY (R230). -/
def execSetDecay (w : Word) (s : State) : Host.Outcome State Fault Refusal :=
  .next (s.setEnvpGroup { s.param.envpGroup with decay := toF32 (durClamp w Config.decayReset) })

/-- SET_RELEASE (R231). -/
def execSetRelease (w : Word) (s : State) : Host.Outcome State Fault Refusal :=
  .next
    (s.setEnvpGroup { s.param.envpGroup with release := toF32 (durClamp w Config.releaseReset) })

/-- SET_SUSTAIN (R232). -/
def execSetSustain (w : Word) (s : State) : Host.Outcome State Fault Refusal :=
  .next
    (s.setEnvpGroup
      { s.param.envpGroup with sustain := toF32 (levelClamp w 0 1 Config.sustainReset) })

/-- SET_OSR (R233). -/
def execSetOsr (ratio : Byte) (s : State) : Host.Outcome State Fault Refusal :=
  .next
    (s.setQualGroup
      { s.param.qualGroup with osr := BitVec.ofNat 5 (countClamp ratio Config.rMin Config.rMax) })

/-- SET_ALPHA (R234). -/
def execSetAlpha (w : Word) (s : State) : Host.Outcome State Fault Refusal :=
  .next
    (s.setQualGroup { s.param.qualGroup with alpha := toF32 (levelClamp w 0 1 Config.alphaReset) })

/-- SET_STRENGTH (R235). -/
def execSetStrength (w : Word) (s : State) : Host.Outcome State Fault Refusal :=
  .next
    (s.setQualGroup
      { s.param.qualGroup with
        strength := toF32 (levelClamp w 0 Config.strengthMax 0x00000000#32) })

end Sys2Proof.Machine
end

