-- ==== Sys2Proof/Machine/Transport.lean ====
section
/-! DEFINITION. The transport commands (44_control.md R236, R237). -/

namespace Sys2Proof.Machine

/-- What a successful STREAM_START reinitialises (R236, 70_reset_and_hazards.md R283). -/
def State.beginSession (s : State) (rate : Word) : State :=
  { s with
    srate := rate
    status := { s.status with running := true }
    fill := { s.fill with stopPend := false }
    env := Envelope.reset
    n := 0#32
    lastFreq := 0x00000000#32
    evq := []
    snap := s.param }

/-- STREAM_START (R236). -/
def execStreamStart (w : Word) (s : State) : Host.Outcome State Fault Refusal :=
  if rateAccepted w then .next (s.beginSession w) else .next (s.raise .badRate)

/-- STREAM_STOP (R237): no effect when stopped, deferred while a FILL is in progress. -/
def execStreamStop (s : State) : Host.Outcome State Fault Refusal :=
  if s.status.running then
    if s.fill.fip then .next { s with fill := { s.fill with stopPend := true } }
    else .next s.endSession
  else .next s

end Sys2Proof.Machine
end

