-- ==== Sys2Proof/Machine/Dispatch.lean ====
section
/-! DEFINITION. The meaning of each instruction: one arm for each constructor of Instr. -/

namespace Sys2Proof.Machine

def exec (i : Instr) (s : State) : Host.Outcome State Fault Refusal :=
  match i with
  | .noteOn note vel => Sys2Proof.Machine.execNoteOn note vel s
  | .noteOff note => Sys2Proof.Machine.execNoteOff note s
  | .gateOn tok => Sys2Proof.Machine.execGateOn tok s
  | .gateOff => Sys2Proof.Machine.execGateOff s
  | .setFreq w => Sys2Proof.Machine.execSetFreq w s
  | .setWave kind => Sys2Proof.Machine.execSetWave kind s
  | .setVoices count => Sys2Proof.Machine.execSetVoices count s
  | .setDetune w => Sys2Proof.Machine.execSetDetune w s
  | .setAttack w => Sys2Proof.Machine.execSetAttack w s
  | .setDecay w => Sys2Proof.Machine.execSetDecay w s
  | .setSustain w => Sys2Proof.Machine.execSetSustain w s
  | .setRelease w => Sys2Proof.Machine.execSetRelease w s
  | .setOsr ratio => Sys2Proof.Machine.execSetOsr ratio s
  | .setAlpha w => Sys2Proof.Machine.execSetAlpha w s
  | .setStrength w => Sys2Proof.Machine.execSetStrength w s
  | .streamStart w => Sys2Proof.Machine.execStreamStart w s
  | .streamStop => Sys2Proof.Machine.execStreamStop s
  | .getReg idx => Sys2Proof.Machine.execGetReg idx s
  | .clrStatus => Sys2Proof.Machine.execClrStatus s
  | .fill fn fbuf => Sys2Proof.Machine.execFill fn fbuf s

end Sys2Proof.Machine
end

