-- ==== Sys2Proof/Machine/Step.lean ====
section
/-! DEFINITION. One step of the block: the next input takes its step; with none to come, the engine goes
on with the FILL in progress (20_memory.md R67; log entries 1, 7 and 13). -/

namespace Sys2Proof.Machine

/-- One atomic step of a realization (20_memory.md R67). A port transaction is decoded and executed, or
recorded as malformed (44_control.md R220); an engine turn is one step of EN. -/
def stepOf (R : Realization) (s : State) : Host.Outcome State Fault Refusal :=
  match s.nextInput with
  | none => engineStep R s
  | some (.engineTurn, s) => engineStep R s
  | some (.port t, s) =>
    match decode t with
    | .ok i => exec i s
    | .error c => execMalformed c s

/-- One atomic step of the reference, the realization whose words are the exact ones. -/
def step (s : State) : Host.Outcome State Fault Refusal := stepOf .reference s

/-- The transaction the opcode table numbers as `w` over `nbits` bits arrives next at its port (log
entry 2). -/
def State.withFetchWord (s : State) (nbits w : Nat) : State := s.arrive (tableTransaction nbits w)

end Sys2Proof.Machine
end

