-- ==== Sys2Proof/Machine/Reference.lean ====
section
/-! DEFINITION. The reference semantics over the exact reals (00_scope.md R7), for statements only: the
machine never evaluates it. The pseudocode is the same text as the machine's, in the arithmetic of ℝ. -/

namespace Sys2Proof.Machine

/-- The exact reals as an arithmetic: each operation is the exact mathematical one (R7, R10). -/
noncomputable def Numerics.real : Numerics ℝ where
  exact q := (q : ℝ)
  add x y := x + y
  sub x y := x - y
  mul x y := x * y
  abs x := |x|
  divide x q := x / (q : ℝ)
  clamp x lo hi := min (max x (lo : ℝ)) (hi : ℝ)
  phase f τ := Int.fract (f * (τ : ℝ))
  belowHalf φ a b := if φ < 1 / 2 then a else b
  sinTurns φ := Real.sin (2 * Real.pi * φ)
  exp2 x := (2 : ℝ) ^ (x : ℝ)

/-- The arithmetic of a realization whose sin and 2^x are the given functions (40_oscillator.md R113; log
entry 7). -/
noncomputable def Numerics.realized (sinTurns exp2 : ℝ → ℝ) : Numerics ℝ :=
  { Numerics.real with sinTurns := sinTurns, exp2 := fun x => exp2 x }

/-- The named properties, the only ones that may be assumed of a realization's functions (R113): of a
phase's sine SIN_RANGE, SIN_ZERO and TOL, and of 2^x for |x| ≤ 1/24 EXP2_POS and TOL. -/
structure NamedProperties (sinTurns exp2 : ℝ → ℝ) (tol : ℝ) : Prop where
  sinRange : ∀ φ : ℝ, 0 ≤ φ → φ < 1 → -1 ≤ sinTurns φ ∧ sinTurns φ ≤ 1
  sinZero : sinTurns 0 = 0
  sinTol : ∀ φ : ℝ, 0 ≤ φ → φ < 1 → |sinTurns φ - Real.sin (2 * Real.pi * φ)| ≤ tol
  exp2Pos : ∀ x : ℝ, |x| ≤ 1 / 24 → 0 < exp2 x
  exp2Tol : ∀ x : ℝ, |x| ≤ 1 / 24 → |exp2 x - (2 : ℝ) ^ x| ≤ tol

/-- A real lies in an enclosure. -/
def Ival.encloses (i : Ival) (x : ℝ) : Prop := (i.lo : ℝ) ≤ x ∧ x ≤ (i.hi : ℝ)

/-- The number a term and a sum of terms stand for. -/
noncomputable def Term.value (t : Term) : ℂ :=
  (t.coef : ℂ) * (((2 : ℝ) ^ (t.two : ℝ) : ℝ) : ℂ) * Complex.exp (2 * Real.pi * Complex.I * (t.turn : ℂ))

noncomputable def Exact.value (x : Exact) : ℂ := (x.map Term.value).sum

/-- A real lies in the enclosure, and is the exact number where one is kept. -/
def Tracked.tracks (x : Tracked) (r : ℝ) : Prop :=
  x.ival.encloses r ∧ ∀ e : Exact, x.exact = some e → e.value = (r : ℂ)

/-- `w` is `toF32(x)` for an exact real x below the overflow range (00_scope.md R8): no finite word is
nearer to x; where a word of another value is as near, `w` has the even fraction; and the sign is that
of x, an exact 0 being +0.0 (43_engine.md R197; log entry 6). -/
def IsToF32 (x : ℝ) (w : Word) : Prop :=
  isFinite w = true
    ∧ (∀ v : Word, isFinite v = true → |x - (f32 w : ℝ)| ≤ |x - (f32 v : ℝ)|)
    ∧ (∀ v : Word, isFinite v = true → f32 v ≠ f32 w → |x - (f32 v : ℝ)| = |x - (f32 w : ℝ)| →
        fracField w % 2 = 0)
    ∧ (signBit w = true ↔ x < 0)

/-- The operands the engine passes from legal registers (40_oscillator.md R100, 10_state.md R53). -/
def FrameOperands.legal (o : FrameOperands) : Prop :=
  0 ≤ o.gain ∧ o.gain ≤ 1 ∧ 0 < o.freq ∧ 0 ≤ o.time ∧ 0 < o.rate ∧ 1 ≤ o.osr ∧ o.osr ≤ Config.rMax
    ∧ 0 ≤ o.alpha ∧ o.alpha ≤ 1 ∧ 0 ≤ o.strength ∧ o.strength ≤ Config.strengthMax

/-- Some precision settles the word of a sounding frame (log entry 5). -/
def FrameOperands.settles (o : FrameOperands) : Prop :=
  ∃ k, k < Config.precisionSteps
    ∧ wordAt (fun p keep => sampleOut (Numerics.tracked p keep) o) (Config.firstPrecision * 2 ^ k) ≠ none

/-- TOL bounds how far a finite word of the realization is from the reference word, which is toF32 of the
exact sample (R8, R197; log entry 7). -/
def Realization.Conforms (R : Realization) : Prop :=
  0 ≤ R.tol
    ∧ ∀ (o : FrameOperands) (w : Word), o.legal → IsToF32 (sampleOut Numerics.real o) w →
        isFinite (R.word o) = true → |f32 (R.word o) - f32 w| ≤ R.tol

end Sys2Proof.Machine
end

