-- ==== Sys2Proof/Safety.lean ====
section
/-! DEFINITION. What every reachable state satisfies (10_state.md R53), as decidable predicates: the
terms in which invariants are stated. -/

namespace Sys2Proof.Machine

/-- A finite binary32 word whose value lies in [lo, hi]. -/
abbrev wordIn (lo hi : Rat) (w : Word) : Prop := isFinite w = true ∧ lo ≤ f32 w ∧ f32 w ≤ hi

/-- A duration register's legal values (10_state.md R26, R27, R29). -/
abbrev legalDuration (w : Word) : Prop := wordIn (f32 Config.epsDur) Config.durMax w

/-- Every parameter register holds a legal value (R22 to R32). -/
abbrev Params.legal (p : Params) : Prop :=
  wordIn 0 Config.freqMax p.freqGroup.freq
    ∧ 1 ≤ p.voiceGroup.voices.toNat ∧ p.voiceGroup.voices.toNat ≤ 8
    ∧ wordIn 0 Config.dMax p.voiceGroup.detune
    ∧ legalDuration p.envpGroup.attack ∧ legalDuration p.envpGroup.decay
    ∧ wordIn 0 1 p.envpGroup.sustain ∧ legalDuration p.envpGroup.release
    ∧ 1 ≤ p.qualGroup.osr.toNat ∧ p.qualGroup.osr.toNat ≤ 16
    ∧ wordIn 0 1 p.qualGroup.alpha ∧ wordIn 0 Config.strengthMax p.qualGroup.strength

/-- The envelope's invariants (R40 to R45, R53). -/
abbrev Envelope.legal (e : Envelope) : Prop :=
  0 ≤ e.value ∧ e.value ≤ 1 ∧ 0 ≤ e.elapsed ∧ 0 ≤ e.origin ∧ e.origin ≤ 1
    ∧ 0 ≤ e.susSnap ∧ e.susSnap ≤ 1
    ∧ (e.stage = .idle → e.value = 0 ∧ e.elapsed = 0 ∧ e.origin = 0 ∧ e.noteValid = false)
    ∧ (e.stage = .sustain → e.elapsed = 0)
    ∧ (e.stage ≠ .idle → e.noteValid = true)
    ∧ (e.noteValid = false → e.note = 0#8)

/-- The session's invariants: a rate above 0 while running (R33); no event and no FILL while stopped
(R53); a pending stop only during a FILL (R54); the FILL's buffer aligned and its frame index in
range. -/
abbrev State.sessionLegal (s : State) : Prop :=
  (isFinite s.srate = true ∧ 0 ≤ f32 s.srate)
    ∧ (s.status.running = true → 0 < f32 s.srate)
    ∧ (s.status.running = false → s.evq = [] ∧ s.fill.fip = false)
    ∧ (s.fill.stopPend = true → s.fill.fip = true)
    ∧ (s.fill.fip = true → s.fill.fj.toNat ≤ s.fill.fn.toNat ∧ s.fill.fbuf.toNat % 4 = 0)

/-- The invariant of the block (R53), with the canonical form of the memory. -/
abbrev State.Inv (s : State) : Prop :=
  s.param.legal ∧ s.snap.legal ∧ wordIn 0 Config.freqMax s.lastFreq ∧ s.env.legal
    ∧ s.evq.length ≤ Config.evqDepth ∧ s.lastErr.toNat ≤ 7 ∧ s.sessionLegal ∧ Memory.wf s.mem

end Sys2Proof.Machine
end

