-- ==== Sys2Proof/Certificates/Slice0/Obligations.lean ====
section
/-! DEFINITION. The statements about the block, for the provers. Each docstring names the rules of spec/
it formalises, and the log entry where a clause rests on a choice of the model. -/

open Sys2Proof Sys2Proof.Machine

/-! ### Decoding, encoding and the step -/

/-- 44_control.md R220: a transaction that decodes executes its rule in the same step. What the step adds
around `exec` is that the transaction is taken off the inputs (the model's list, log entry 1). -/
def Obligations.StepRunsTheDecodedInstruction : Prop :=
  ∀ (s : State) (t : Transaction) (rest : List Input) (i : Instr),
    s.inputs = .port t :: rest → decode t = .ok i → step s = exec i { s with inputs := rest }

/-- 30_encoding.md R85: the decoder's checks in order, on the bits of the command word; a failed check
records BADCMD with its code and does nothing else; else the rule of OP is executed with (A, B, OW). -/
def Obligations.ControlTransactionIsCheckedInOrder : Prop :=
  ∀ (s : State) (cw ow : Word) (rest : List Input), s.inputs = .port (.control cw ow) :: rest →
    let s' := { s with inputs := rest }
    let op := cw.toNat / 2 ^ 24
    let a := cw.toNat / 2 ^ 16 % 256
    let b := cw.toNat / 2 ^ 8 % 256
    let z := cw.toNat % 256
    let A := BitVec.ofNat 8 a
    let B := BitVec.ofNat 8 b
    let ignored (code : Byte) : Host.Outcome State Fault Refusal :=
      .next { s' with status := { s'.status with badCmd := true }, lastErr := code }
    if op ∉ [0x01, 0x02, 0x03, 0x04, 0x10, 0x11, 0x12, 0x13, 0x14, 0x15, 0x16, 0x17, 0x18, 0x19, 0x1A,
        0x20, 0x21, 0x30, 0x31] then
      step s = ignored 0x01#8
    else if z ≠ 0
        ∨ (op ∈ [0x04, 0x10, 0x13, 0x14, 0x15, 0x16, 0x17, 0x19, 0x1A, 0x20, 0x21, 0x31] ∧ a ≠ 0)
        ∨ (op ≠ 0x01 ∧ b ≠ 0) then
      step s = ignored 0x02#8
    else if (op = 0x01 ∧ (127 < a ∨ 127 < b)) ∨ (op = 0x02 ∧ 127 < a) ∨ (op = 0x11 ∧ 3 < a) then
      step s = ignored 0x03#8
    else
      step s
        = exec
            (match op with
            | 0x01 => .noteOn A B
            | 0x02 => .noteOff A
            | 0x03 => .gateOn A
            | 0x04 => .gateOff
            | 0x10 => .setFreq ow
            | 0x11 => .setWave A
            | 0x12 => .setVoices A
            | 0x13 => .setDetune ow
            | 0x14 => .setAttack ow
            | 0x15 => .setDecay ow
            | 0x16 => .setSustain ow
            | 0x17 => .setRelease ow
            | 0x18 => .setOsr A
            | 0x19 => .setAlpha ow
            | 0x1A => .setStrength ow
            | 0x20 => .streamStart ow
            | 0x21 => .streamStop
            | 0x30 => .getReg A
            | _ => .clrStatus)
            s'

/-- 20_memory.md R67: an engine turn is one step of EN, for every realization; the machine's step is that
of the reference (log entry 7). With no input to come the engine goes on by itself (the model's choice,
log entries 1 and 13). -/
def Obligations.EngineTurnIsOneEngineStep : Prop :=
  (∀ (R : Realization) (s : State) (rest : List Input), s.inputs = .engineTurn :: rest →
      stepOf R s = engineStep R { s with inputs := rest })
    ∧ (∀ (R : Realization) (s : State), s.inputs = [] → stepOf R s = engineStep R s)
    ∧ ∀ s : State, step s = stepOf { word := referenceWord, tol := 0 } s

/-- 30_encoding.md R84, R90: the decoder reads back every well-formed instruction from its encoding. -/
def Obligations.DecodeOfEncodeIsTheInstruction : Prop :=
  ∀ i : Instr, i.wf = true → decode (encode i) = .ok i

/-- 30_encoding.md R82, R87: each command word has one meaning: a decoded control transaction is
well-formed and encodes to the same command word, with the operand word where its format uses one. -/
def Obligations.DecodedCommandEncodesToItsWords : Prop :=
  ∀ (cw ow : Word) (i : Instr), decodeControl cw ow = .ok i →
    i.wf = true
      ∧ encode i
          = .control cw
              (if cw.toNat / 2 ^ 24 ∈ [0x10, 0x13, 0x14, 0x15, 0x16, 0x17, 0x19, 0x1A, 0x20] then ow
              else 0#32)

/-- 95_test_vectors.md 2.5: the decoder reads words written out there from the encodings of R84. -/
def Obligations.DecoderReadsTheSpecsWords : Prop :=
  decode (.control 0x01456400#32 0#32) = .ok (.noteOn 69#8 100#8)
    ∧ decode (.control 0x02480000#32 0#32) = .ok (.noteOff 72#8)
    ∧ decode (.control 0x03800000#32 0#32) = .ok (.gateOn 0x80#8)
    ∧ decode (.control 0x10000000#32 0x43DC0000#32) = .ok (.setFreq 0x43DC0000#32)
    ∧ decode (.control 0x17000000#32 0x3E4CCCCD#32) = .ok (.setRelease 0x3E4CCCCD#32)
    ∧ decode (.control 0x20000000#32 0x472C4400#32) = .ok (.streamStart 0x472C4400#32)
    ∧ decode (.control 0x300C0000#32 0#32) = .ok (.getReg 0x0C#8)
    ∧ decode (.audio 0x00000100#32 64#32) = .ok (.fill 256#32 64#32)

/-- 20_memory.md R63: carried over a byte stream a word is little-endian; on either port the bytes of an
encoded transaction (its first word first, the model's reading of log entry 15) decode to its
instruction, and the rest is left. -/
def Obligations.CommandBytesDecodeLittleEndian : Prop :=
  ∀ (i : Instr) (w0 w1 : Word) (rest : List Byte), i.wf = true →
    let bytes :=
      [w0.extractLsb' 0 8, w0.extractLsb' 8 8, w0.extractLsb' 16 8, w0.extractLsb' 24 8,
        w1.extractLsb' 0 8, w1.extractLsb' 8 8, w1.extractLsb' 16 8, w1.extractLsb' 24 8]
    (encode i = .control w0 w1 → decodeStream .control (bytes ++ rest) = .ok (i, rest))
      ∧ (encode i = .audio w0 w1 → decodeStream .audio (bytes ++ rest) = .ok (i, rest))

/-! ### Parameter setters -/

/-- 44_control.md R225, R242: SET_FREQ stores W unchanged in range and the nearer bound otherwise. The
equation is also the frame: nothing else changes and no condition is recorded (R272). -/
def Obligations.SetFreqStoresTheClampedFrequency : Prop :=
  ∀ (s : State) (w : Word),
    exec (.setFreq w) s
      = .next
          { s with
            param :=
              { s.param with
                freqGroup :=
                  { freq :=
                      if isNaN w = true ∨ w = 0xFF800000#32 then 0x00000000#32
                      else if w = 0x7F800000#32 then 0x469C4000#32
                      else if f32 w ≤ 0 then 0x00000000#32
                      else if 20000 ≤ f32 w then 0x469C4000#32
                      else w } } }

/-- 44_control.md R229 to R231, R242: SET_ATTACK, SET_DECAY and SET_RELEASE store W in
[EPS_DUR, DUR_MAX], the nearer bound outside it, and the register's reset value for a NaN. -/
def Obligations.DurationSettersStoreTheClampedDuration : Prop :=
  let stored (w dflt : Word) : Word :=
    if isNaN w = true then dflt
    else if w = 0x7F800000#32 then 0x41200000#32
    else if w = 0xFF800000#32 then 0x3A83126F#32
    else if f32 w ≤ f32 0x3A83126F#32 then 0x3A83126F#32
    else if 10 ≤ f32 w then 0x41200000#32
    else w
  ∀ (s : State) (w : Word),
    exec (.setAttack w) s
        = .next
            { s with
              param :=
                { s.param with
                  envpGroup := { s.param.envpGroup with attack := stored w 0x3C23D70A#32 } } }
      ∧ exec (.setDecay w) s
        = .next
            { s with
              param :=
                { s.param with
                  envpGroup := { s.param.envpGroup with decay := stored w 0x3DCCCCCD#32 } } }
      ∧ exec (.setRelease w) s
        = .next
            { s with
              param :=
                { s.param with
                  envpGroup := { s.param.envpGroup with release := stored w 0x3E4CCCCD#32 } } }

/-- 44_control.md R232, R234, R235, R242: SET_SUSTAIN, SET_ALPHA and SET_STRENGTH store W in [0, hi],
the nearer bound outside it, and the register's reset value for a NaN. -/
def Obligations.LevelSettersStoreTheClampedLevel : Prop :=
  let stored (w : Word) (hi : Rat) (hiWord dflt : Word) : Word :=
    if isNaN w = true then dflt
    else if w = 0x7F800000#32 then hiWord
    else if w = 0xFF800000#32 then 0x00000000#32
    else if f32 w ≤ 0 then 0x00000000#32
    else if hi ≤ f32 w then hiWord
    else w
  ∀ (s : State) (w : Word),
    exec (.setSustain w) s
        = .next
            { s with
              param :=
                { s.param with
                  envpGroup :=
                    { s.param.envpGroup with
                      sustain := stored w 1 0x3F800000#32 0x3F333333#32 } } }
      ∧ exec (.setAlpha w) s
        = .next
            { s with
              param :=
                { s.param with
                  qualGroup :=
                    { s.param.qualGroup with alpha := stored w 1 0x3F800000#32 0x3F800000#32 } } }
      ∧ exec (.setStrength w) s
        = .next
            { s with
              param :=
                { s.param with
                  qualGroup :=
                    { s.param.qualGroup with
                      strength := stored w (1 / 2) 0x3F000000#32 0x00000000#32 } } }

/-- 44_control.md R228: SET_DETUNE stores W clamped to [0, 100] cents; a NaN or an infinity stores one
voice and no detune. -/
def Obligations.SetDetuneClampsOrFallsBack : Prop :=
  ∀ (s : State) (w : Word),
    exec (.setDetune w) s
      = .next
          { s with
            param :=
              { s.param with
                voiceGroup :=
                  if isFinite w = true then
                    { s.param.voiceGroup with
                      detune :=
                        if f32 w ≤ 0 then 0x00000000#32
                        else if 100 ≤ f32 w then 0x42C80000#32
                        else w }
                  else { s.param.voiceGroup with voices := 1#4, detune := 0x00000000#32 } } }

/-- 44_control.md R226, R227, R233: SET_WAVE stores the waveform of its two low bits, SET_VOICES the
count clamped to [1, 8], SET_OSR the factor clamped to [1, 16]. -/
def Obligations.CodeAndCountSettersStoreTheirOperand : Prop :=
  ∀ (s : State) (a : Byte),
    exec (.setWave a) s
        = .next
            { s with
              param :=
                { s.param with
                  voiceGroup :=
                    { s.param.voiceGroup with
                      wave :=
                        if a.toNat % 4 = 0 then .sine
                        else if a.toNat % 4 = 1 then .triangle
                        else if a.toNat % 4 = 2 then .square
                        else .sawtooth } } }
      ∧ exec (.setVoices a) s
        = .next
            { s with
              param :=
                { s.param with
                  voiceGroup :=
                    { s.param.voiceGroup with
                      voices :=
                        if a.toNat < 1 then 1#4
                        else if 8 < a.toNat then 8#4
                        else BitVec.ofNat 4 a.toNat } } }
      ∧ exec (.setOsr a) s
        = .next
            { s with
              param :=
                { s.param with
                  qualGroup :=
                    { s.param.qualGroup with
                      osr :=
                        if a.toNat < 1 then 1#5
                        else if 16 < a.toNat then 16#5
                        else BitVec.ofNat 5 a.toNat } } }

/-! ### Note events -/

/-- 44_control.md R222 to R224, R240: NOTE_OFF, GATE_ON and GATE_OFF append their event at the tail of
the queue while a session runs; a full queue drops it and records EVQ_OVERFLOW; while stopped nothing
changes. -/
def Obligations.NoteEventsAreQueuedDroppedOrDiscarded : Prop :=
  ∀ (s : State) (i : Instr) (e : NoteEvent),
    (i, e) = (Instr.gateOff, NoteEvent.stopAny)
        ∨ (∃ n : Byte, (i, e) = (Instr.noteOff n, NoteEvent.stop n))
        ∨ (∃ tok : Byte, (i, e) = (Instr.gateOn tok, NoteEvent.start tok)) →
      exec i s
        = .next
            (if s.status.running = false then s
            else if s.evq.length = 16 then
              { s with status := { s.status with evqOvf := true }, lastErr := 0x04#8 }
            else { s with evq := s.evq ++ [e] })

/-- 44_control.md R221: a NOTE_ON with velocity 0 has exactly the effect of NOTE_OFF. -/
def Obligations.NoteOnWithVelocityZeroIsNoteOff : Prop :=
  ∀ (s : State) (n : Byte), exec (.noteOn n 0#8) s = exec (.noteOff n) s

/-- 44_control.md R221, R241: a NOTE_ON with a velocity above 0 writes to FREQ the binary32 word nearest
to 440 · 2^((n - 69)/12) Hz, and queues START(n) while a session runs (dropped when the queue is full,
with FREQ still written). -/
def Obligations.NoteOnTunesAndStartsTheNote : Prop :=
  ∀ (s : State) (n vel : Byte), n.toNat ≤ 127 → vel ≠ 0#8 →
    ∃ w : Word,
      IsToF32 (440 * (2 : ℝ) ^ (((n.toNat : ℝ) - 69) / 12)) w
        ∧ exec (.noteOn n vel) s
            = .next
                (let s' := { s with param := { s.param with freqGroup := { freq := w } } }
                if s.status.running = false then s'
                else if s.evq.length = 16 then
                  { s' with status := { s.status with evqOvf := true }, lastErr := 0x04#8 }
                else { s' with evq := s.evq ++ [.start n] })

/-! ### Transport, registers and status -/

/-- 44_control.md R236: STREAM_START at a finite rate above 0 reinitialises the session and keeps PARAM,
the sticky bits, LAST_ERR and the FILL in progress; any other rate records BAD_RATE and changes nothing
else. -/
def Obligations.StreamStartReinitialisesOrRefuses : Prop :=
  ∀ (s : State) (w : Word),
    exec (.streamStart w) s
      = .next
          (if isFinite w = true ∧ 0 < f32 w then
            { s with
              srate := w
              status := { s.status with running := true }
              fill := { s.fill with stopPend := false }
              env :=
                { stage := .idle, value := 0, elapsed := 0, origin := 0, susSnap := 0, note := 0#8,
                  noteValid := false }
              n := 0#32
              lastFreq := 0x00000000#32
              evq := []
              snap := s.param }
          else { s with status := { s.status with setupErr := true }, lastErr := 0x05#8 })

/-- 44_control.md R237: STREAM_STOP has no effect when stopped, waits for the buffer end while a FILL is
in progress, and else ends the session. -/
def Obligations.StreamStopEndsDefersOrDoesNothing : Prop :=
  ∀ s : State,
    exec .streamStop s
      = .next
          (if s.status.running = false then s
          else if s.fill.fip = true then { s with fill := { s.fill with stopPend := true } }
          else { s with status := { s.status with running := false }, evq := [] })

/-- 44_control.md R238, 10_state.md R22 to R51, 20_memory.md R61, R62: GET_REG replies the register's
word, bit by bit for STATUS and ENVSTAT, and changes nothing else; a reserved index replies 0. -/
def Obligations.GetRegRepliesTheRegister : Prop :=
  let bit (b : Bool) : Nat := if b then 1 else 0
  ∀ (s : State) (idx : Byte), ∃ w : Word,
    exec (.getReg idx) s = .next { s with replies := s.replies ++ [w] }
      ∧ (idx = 0x00#8 → w = s.param.freqGroup.freq)
      ∧ (idx = 0x01#8 → w.toNat
          = (match s.param.voiceGroup.wave with
            | .sine => 0
            | .triangle => 1
            | .square => 2
            | .sawtooth => 3))
      ∧ (idx = 0x02#8 → w.toNat = s.param.voiceGroup.voices.toNat)
      ∧ (idx = 0x03#8 → w = s.param.voiceGroup.detune)
      ∧ (idx = 0x04#8 → w = s.param.envpGroup.attack)
      ∧ (idx = 0x05#8 → w = s.param.envpGroup.decay)
      ∧ (idx = 0x06#8 → w = s.param.envpGroup.sustain)
      ∧ (idx = 0x07#8 → w = s.param.envpGroup.release)
      ∧ (idx = 0x08#8 → w.toNat = s.param.qualGroup.osr.toNat)
      ∧ (idx = 0x09#8 → w = s.param.qualGroup.alpha)
      ∧ (idx = 0x0A#8 → w = s.param.qualGroup.strength)
      ∧ (idx = 0x0B#8 → w = s.srate)
      ∧ (idx = 0x0C#8 → w.toNat
          = bit s.status.running + 2 * bit s.status.badCmd + 4 * bit s.status.evqOvf
            + 8 * bit s.status.setupErr + 16 * bit s.status.silenced + 32 * bit s.status.fillIdle
            + 64 * bit s.fill.stopPend)
      ∧ (idx = 0x0D#8 → w.toNat = s.lastErr.toNat)
      ∧ (idx = 0x0E#8 → w.toNat
          = (match s.env.stage with
            | .idle => 0
            | .attack => 1
            | .decay => 2
            | .sustain => 3
            | .release => 4)
            + 8 * bit s.env.noteValid
            + 16 * bit (s.env.stage == .attack || s.env.stage == .decay || s.env.stage == .sustain)
            + 32 * bit (s.env.stage != .idle)
            + 64 * bit (s.env.stage == .release)
            + 256 * s.env.note.toNat)
      ∧ (idx = 0x0F#8 → w = toF32 s.env.value)
      ∧ (idx = 0x10#8 → w = s.n)
      ∧ (idx = 0x11#8 → w = s.lastFreq)
      ∧ (idx = 0x12#8 → w = BitVec.ofNat 32 s.evq.length)
      ∧ (idx = 0x13#8 → w = 0x53594E07#32)
      ∧ (0x14 ≤ idx.toNat → w = 0x00000000#32)

/-- 44_control.md R239: CLR_STATUS clears the five sticky bits and LAST_ERR and nothing else. -/
def Obligations.ClrStatusClearsTheConditions : Prop :=
  ∀ s : State,
    exec .clrStatus s
      = .next
          { s with
            status :=
              { running := s.status.running, badCmd := false, evqOvf := false, setupErr := false,
                silenced := false, fillIdle := false }
            lastErr := 0x00#8 }

/-- 20_memory.md R70, 44_control.md R220 point 4: no control command waits on the engine: each completes
in its one step from every state, a FILL in progress or not. -/
def Obligations.EveryControlCommandCompletes : Prop :=
  ∀ (i : Instr) (s : State), (∀ (fn fbuf : Word), i ≠ .fill fn fbuf) →
    ∃ t : State, exec i s = .next t

/-- 60_exceptions.md R267: no command but STREAM_START writes E, N or LAST_FREQ; neither SNAP nor the
output buffer, and of FILLCTX at most STOP_PEND. -/
def Obligations.CommandsLeaveTheEngineStateAlone : Prop :=
  ∀ (i : Instr) (s t : State), (∀ w : Word, i ≠ .streamStart w) →
    (∀ (fn fbuf : Word), i ≠ .fill fn fbuf) → exec i s = .next t →
      t.env = s.env ∧ t.n = s.n ∧ t.lastFreq = s.lastFreq ∧ t.snap = s.snap ∧ t.srate = s.srate
        ∧ t.mem = s.mem ∧ t.draws = s.draws ∧ t.inputs = s.inputs
        ∧ t.fill = { s.fill with stopPend := t.fill.stopPend }

/-! ### FILL and the engine -/

/-- 43_engine.md R191: a FILL while stopped writes FN zero words in one step, records FILL_STOPPED and
changes nothing else. -/
def Obligations.FillWhileStoppedWritesSilence : Prop :=
  ∀ (s : State) (fn fbuf : Word), fbuf.toNat % 4 = 0 → s.fill.fip = false →
    s.status.running = false →
      ∃ m : Memory,
        exec (.fill fn fbuf) s
            = .next
                { s with
                  mem := m
                  status := { s.status with fillIdle := true }
                  lastErr := 0x07#8 }
          ∧ (∀ j : Nat, j < fn.toNat → Memory.readWord (fbuf.toNat + 4 * j) m = some 0x00000000#32)
          ∧ (∀ a : Nat, a < fbuf.toNat ∨ fbuf.toNat + 4 * fn.toNat ≤ a → Memory.read a m = Memory.read a s.mem)

/-- 20_memory.md R64, 70_reset_and_hazards.md R293: a FILL with a misaligned FBUF is refused, and so is a
FILL while another is in progress (running or not: log entry 11). -/
def Obligations.FillInBreachOfAHostDutyIsRefused : Prop :=
  ∀ (s : State) (fn fbuf : Word),
    (fbuf.toNat % 4 ≠ 0 → exec (.fill fn fbuf) s = .refused .fillMisaligned)
      ∧ (fbuf.toNat % 4 = 0 → s.fill.fip = true → exec (.fill fn fbuf) s = .refused .fillOutstanding)

/-- 43_engine.md R190, R192, R193, R195, 20_memory.md R68: the first step of a FILL in a session. Each
group of SNAP is fresh or stale as the draw `d` says; LAST_FREQ takes a positive snapshot frequency; the
queued events are applied in order, with this buffer's sustain level; and nothing else changes. The draw
is the next of the model's list, fresh when the list is used up (log entry 3). -/
def Obligations.FillInASessionStartsTheBuffer : Prop :=
  ∀ (s : State) (fn fbuf : Word), fbuf.toNat % 4 = 0 → s.fill.fip = false →
    s.status.running = true →
      let d : Draw := s.draws.headD { freq := true, voice := true, envp := true, qual := true }
      ∃ snap : Params,
        exec (.fill fn fbuf) s
            = .next
                { s with
                  snap := snap
                  fill :=
                    { fip := true, fn := fn, fj := 0#32, fbuf := fbuf, badBuf := false,
                      stopPend := s.fill.stopPend }
                  lastFreq :=
                    if 0 < f32 snap.freqGroup.freq then snap.freqGroup.freq else s.lastFreq
                  env :=
                    s.evq.foldl
                      (fun e ev =>
                        match ev with
                        | .start tok => envStart tok (f32 snap.envpGroup.sustain) e
                        | .stop tok => envEnd (some tok) e
                        | .stopAny => envEnd none e)
                      s.env
                  evq := []
                  draws := s.draws.tail }
          ∧ snap.freqGroup = (if d.freq = true then s.param.freqGroup else s.snap.freqGroup)
          ∧ snap.voiceGroup = (if d.voice = true then s.param.voiceGroup else s.snap.voiceGroup)
          ∧ snap.envpGroup = (if d.envp = true then s.param.envpGroup else s.snap.envpGroup)
          ∧ snap.qualGroup = (if d.qual = true then s.param.qualGroup else s.snap.qualGroup)

/-- 43_engine.md R194, R196, R198, R202: FRAME, for any realization (NUMERICS, log entry 7). The
envelope is advanced by 1/sr; the word is +0.0 when E is then Idle or LAST_FREQ is 0, else what the
realization makes of the frame's operands; it is written to FBUF + 4·FJ and nowhere else; N and FJ advance
by one, N wrapping; and nothing else changes. -/
def Obligations.FrameWritesOneWordAndAdvances : Prop :=
  ∀ (R : Realization) (s : State), s.fill.fip = true →
    s.fill.fj.toNat < s.fill.fn.toNat → isFinite s.srate = true → 0 < f32 s.srate →
      let sr := f32 s.srate
      let e :=
        envUpdate (1 / sr) (f32 s.snap.envpGroup.attack) (f32 s.snap.envpGroup.decay)
          (f32 s.snap.envpGroup.release) s.env
      let w :=
        if e.stage = .idle ∨ f32 s.lastFreq = 0 then 0x00000000#32
        else
          R.word
            { gain := e.value, freq := f32 s.lastFreq, kind := s.snap.voiceGroup.wave,
              voices := s.snap.voiceGroup.voices.toNat, detune := s.snap.voiceGroup.detune,
              time := (s.n.toNat : Rat) / sr, rate := sr, osr := s.snap.qualGroup.osr.toNat,
              alpha := f32 s.snap.qualGroup.alpha, strength := f32 s.snap.qualGroup.strength }
      let at_ := s.fill.fbuf.toNat + 4 * s.fill.fj.toNat
      ∃ m : Memory,
        engineStep R s
            = .next
                { s with
                  env := e
                  n := BitVec.ofNat 32 (s.n.toNat + 1)
                  mem := m
                  fill :=
                    { s.fill with
                      fj := BitVec.ofNat 32 (s.fill.fj.toNat + 1)
                      badBuf := s.fill.badBuf || !isFinite w } }
          ∧ Memory.readWord at_ m = some w
          ∧ (∀ a : Nat, a < at_ ∨ at_ + 4 ≤ a → Memory.read a m = Memory.read a s.mem)

/-- 43_engine.md R199: BUFFER_END. A bad buffer is rewritten as silence with NONFINITE_OUTPUT; FIP and
BADBUF are cleared; a pending stop clears RUNNING and empties the queue; E, N and LAST_FREQ are kept. -/
def Obligations.BufferEndCompletesTheFill : Prop :=
  ∀ (R : Realization) (s : State), s.fill.fip = true →
    s.fill.fn.toNat ≤ s.fill.fj.toNat →
      let st := if s.fill.badBuf = true then { s.status with silenced := true } else s.status
      ∃ m : Memory,
        engineStep R s
            = .next
                { s with
                  mem := m
                  status := if s.fill.stopPend = true then { st with running := false } else st
                  lastErr := if s.fill.badBuf = true then 0x06#8 else s.lastErr
                  evq := if s.fill.stopPend = true then [] else s.evq
                  fill := { s.fill with fip := false, badBuf := false, stopPend := false } }
          ∧ (s.fill.badBuf = false → m = s.mem)
          ∧ (s.fill.badBuf = true →
              (∀ j : Nat, j < s.fill.fn.toNat →
                  Memory.readWord (s.fill.fbuf.toNat + 4 * j) m = some 0x00000000#32)
                ∧ ∀ a : Nat, a < s.fill.fbuf.toNat ∨ s.fill.fbuf.toNat + 4 * s.fill.fn.toNat ≤ a →
                    Memory.read a m = Memory.read a s.mem)

/-- 43_engine.md R201, R200: a FILL in a session, with no command in between, completes after exactly
FN + 2 steps (given the list of inputs that log entry 1 makes of that): it is in progress after each
earlier step; at the end every word of the buffer is written, no byte outside it has changed, N has
advanced by FN, and PARAM and the session are kept. -/
def Obligations.FillCompletesAfterItsFramesAndTwoSteps : Prop :=
  ∀ (s : State) (fn fbuf : Word), fbuf.toNat % 4 = 0 → s.fill.fip = false →
    s.fill.stopPend = false → s.status.running = true → isFinite s.srate = true → 0 < f32 s.srate →
    s.inputs = uninterruptedFill fn fbuf →
      (∀ k : Nat, 1 ≤ k → k < fn.toNat + 2 →
          ∃ t : State, Sys2Proof.core.run k s = .next t ∧ t.fill.fip = true)
        ∧ ∃ t : State,
            Sys2Proof.core.run (fn.toNat + 2) s = .next t
              ∧ t.fill.fip = false ∧ t.inputs = [] ∧ t.n = s.n + fn ∧ t.param = s.param
              ∧ t.srate = s.srate ∧ t.status.running = true ∧ t.evq = []
              ∧ (∀ j : Nat, j < fn.toNat → Memory.readWord (fbuf.toNat + 4 * j) t.mem ≠ none)
              ∧ (∀ a : Nat, a < fbuf.toNat ∨ fbuf.toNat + 4 * fn.toNat ≤ a →
                  Memory.read a t.mem = Memory.read a s.mem)

/-- 43_engine.md R203: a parameter command and an engine step of a FILL in progress commute: the command
changes no frame of that FILL, and the frame changes nothing the command does. -/
def Obligations.SettersDoNotReachTheFillInProgress : Prop :=
  ∀ (R : Realization) (s : State) (i : Instr),
    (∃ w : Word,
        i = .setFreq w ∨ i = .setDetune w ∨ i = .setAttack w ∨ i = .setDecay w ∨ i = .setSustain w
          ∨ i = .setRelease w ∨ i = .setAlpha w ∨ i = .setStrength w)
      ∨ (∃ a : Byte, i = .setWave a ∨ i = .setVoices a ∨ i = .setOsr a) →
      ∃ t : State, exec i s = .next t ∧ t.mem = s.mem
        ∧ (∀ u : State, engineStep R s = .next u →
            ∃ v : State, engineStep R t = .next v ∧ exec i u = .next v)
        ∧ (∀ f : Fault, engineStep R s = .fault f → engineStep R t = .fault f)

/-- 70_reset_and_hazards.md R296: after a STREAM_START during a FILL all its remaining frames are silent:
the next one is, at the old place in the buffer, with E Idle and no held frequency, and the sample counter
goes on from 0; and every frame made with E Idle and no held frequency is silent and keeps both, the
session and the FILL. -/
def Obligations.RestartDuringAFillIsSilent : Prop :=
  (∀ (R : Realization) (s : State) (w : Word), s.fill.fip = true →
    s.fill.fj.toNat < s.fill.fn.toNat → isFinite w = true → 0 < f32 w →
      ∃ t u : State,
        exec (.streamStart w) s = .next t ∧ engineStep R t = .next u
          ∧ Memory.readWord (s.fill.fbuf.toNat + 4 * s.fill.fj.toNat) u.mem = some 0x00000000#32
          ∧ u.env.stage = .idle ∧ u.lastFreq = 0x00000000#32 ∧ u.n = 1#32 ∧ u.srate = w
          ∧ u.fill = { s.fill with fj := s.fill.fj + 1#32, stopPend := false })
    ∧ ∀ (R : Realization) (s : State), s.fill.fip = true → s.fill.fj.toNat < s.fill.fn.toNat →
        isFinite s.srate = true → 0 < f32 s.srate → s.env.stage = .idle →
        s.lastFreq = 0x00000000#32 →
          ∃ u : State,
            engineStep R s = .next u
              ∧ Memory.readWord (s.fill.fbuf.toNat + 4 * s.fill.fj.toNat) u.mem = some 0x00000000#32
              ∧ (∀ a : Nat,
                  a < s.fill.fbuf.toNat + 4 * s.fill.fj.toNat
                      ∨ s.fill.fbuf.toNat + 4 * s.fill.fj.toNat + 4 ≤ a →
                    Memory.read a u.mem = Memory.read a s.mem)
              ∧ u.env.stage = .idle ∧ u.lastFreq = 0x00000000#32 ∧ u.srate = s.srate
              ∧ u.status = s.status ∧ u.fill = { s.fill with fj := s.fill.fj + 1#32 }

/-- With no FILL in progress, a host reads at each address the byte the engine last wrote there. That is
the model's choice (log entry 9: the host's own writes are left out); 20_memory.md R76 says only that
after completion the buffer is the host's and the block never touches it again. -/
def Obligations.AfterCompletionTheHostReadsTheBuffer : Prop :=
  ∀ (s : State) (a : Nat), s.fill.fip = false → s.hostByte a = Memory.read a s.mem

/-! ### The envelope -/

/-- 42_envelope.md R150: the smootherstep is the quintic u³(u(6u - 15) + 10) on [0, 1] (53/512
at 1/4); it is 0 up to 0 and 1 from 1 on, 1/2 at 1/2, strictly increasing on [0, 1], symmetric, and
nowhere steeper than 15/8. -/
def Obligations.SmootherstepIsTheQuinticEase : Prop :=
  (∀ u : Rat, 0 ≤ u → u ≤ 1 → smootherstep u = u ^ 3 * (u * (6 * u - 15) + 10))
    ∧ smootherstep (1 / 4) = 53 / 512
    ∧ (∀ u : Rat, u ≤ 0 → smootherstep u = 0)
    ∧ (∀ u : Rat, 1 ≤ u → smootherstep u = 1)
    ∧ smootherstep (1 / 2) = 1 / 2
    ∧ (∀ u v : Rat, 0 ≤ u → u < v → v ≤ 1 → smootherstep u < smootherstep v)
    ∧ (∀ u : Rat, smootherstep (1 - u) = 1 - smootherstep u)
    ∧ (∀ u v : Rat, |smootherstep u - smootherstep v| ≤ 15 / 8 * |u - v|)

/-- 42_envelope.md R152: a start of the note that is held changes nothing; any other start begins the
Attack from the current value, captures the sustain level, and never changes the value. -/
def Obligations.StartRetriggersWithoutAJump : Prop :=
  ∀ (tok : Byte) (sus : Rat) (e : Envelope),
    envStart tok sus e
      = if (e.stage = .attack ∨ e.stage = .decay ∨ e.stage = .sustain) ∧ e.note = tok then e
        else
          { stage := .attack, value := e.value, elapsed := 0, origin := e.value, susSnap := sus,
            note := tok, noteValid := true }

/-- 42_envelope.md R153: an end that selects the held note captures its value and begins the Release;
any other end has no effect. -/
def Obligations.EndReleasesTheSelectedHeldNote : Prop :=
  ∀ (sel : Option Byte) (e : Envelope),
    envEnd sel e
      = if (e.stage = .attack ∨ e.stage = .decay ∨ e.stage = .sustain)
            ∧ (sel = none ∨ sel = some e.note) then
          { e with stage := .release, origin := e.value, elapsed := 0 }
        else e

/-- 42_envelope.md R151, R154 to R156: one update, stage by stage: the clamped durations, the carried
time, the two transitions one update can make, and the value of the stage reached. -/
def Obligations.UpdateAdvancesTheStageByDt : Prop :=
  ∀ (dt ap dp rp : Rat) (e : Envelope),
    let a := max ap (f32 0x3A83126F#32)
    let d := max dp (f32 0x3A83126F#32)
    let r := max rp (f32 0x3A83126F#32)
    let el := e.elapsed + dt
    let decayAt (x : Rat) : Envelope :=
      if x < d then
        { e with stage := .decay, elapsed := x, value := 1 + (e.susSnap - 1) * smootherstep (x / d) }
      else { e with stage := .sustain, elapsed := 0, value := e.susSnap }
    (e.stage = .idle → envUpdate dt ap dp rp e = { e with value := 0, elapsed := 0 })
      ∧ (e.stage = .attack →
          envUpdate dt ap dp rp e
            = if el < a then
                { e with
                  elapsed := el
                  value := e.origin + (1 - e.origin) * smootherstep (el / a) }
              else decayAt (el - a))
      ∧ (e.stage = .decay → envUpdate dt ap dp rp e = decayAt el)
      ∧ (e.stage = .sustain → envUpdate dt ap dp rp e = { e with value := e.susSnap })
      ∧ (e.stage = .release →
          envUpdate dt ap dp rp e
            = if el < r then
                { e with elapsed := el, value := e.origin * (1 - smootherstep (el / r)) }
              else
                { e with
                  stage := .idle, value := 0, elapsed := 0, origin := 0, note := 0#8,
                  noteValid := false })

/-- 42_envelope.md R159 item 5: an update keeps the envelope's value in its stage's range. -/
def Obligations.UpdateKeepsTheValueInItsRange : Prop :=
  ∀ (dt ap dp rp : Rat) (e : Envelope), 0 < dt → e.legal →
    let u := envUpdate dt ap dp rp e
    u.legal
      ∧ (u.stage = .attack → u.origin ≤ u.value)
      ∧ (u.stage = .decay → u.susSnap ≤ u.value)
      ∧ (u.stage = .sustain → u.value = u.susSnap)
      ∧ (u.stage = .release → u.value ≤ u.origin)

/-- 42_envelope.md R159 item 1: after a start from Idle and with no further event, Sustain is entered at
exactly the least k with k · dt at least a + d, at the captured level, and is held for every later
update. -/
def Obligations.SustainIsReachedAfterAttackPlusDecay : Prop :=
  ∀ (tok : Byte) (sus dt ap dp rp : Rat) (e : Envelope) (k : Nat), e.stage = .idle → 0 < dt →
    let a := max ap (f32 0x3A83126F#32)
    let d := max dp (f32 0x3A83126F#32)
    let after (j : Nat) : Envelope := (envUpdate dt ap dp rp)^[j] (envStart tok sus e)
    a + d ≤ k * dt → (∀ j : Nat, j < k → j * dt < a + d) →
      (∀ j : Nat, j < k → (after j).stage ≠ .sustain)
        ∧ ∀ j : Nat, k ≤ j → (after j).stage = .sustain ∧ (after j).value = sus

/-- 42_envelope.md R159 item 2: after an end from Sustain the value falls strictly at every update
before the least k with k · dt at least r, is half the start value where half of r has elapsed, and is
exactly 0 in Idle at update k. -/
def Obligations.ReleaseFallsStrictlyToZero : Prop :=
  ∀ (sel : Option Byte) (dt ap dp rp : Rat) (e : Envelope) (k : Nat), e.stage = .sustain →
    (sel = none ∨ sel = some e.note) → 0 < e.value → 0 < dt →
    let r := max rp (f32 0x3A83126F#32)
    let after (j : Nat) : Envelope := (envUpdate dt ap dp rp)^[j] (envEnd sel e)
    r ≤ k * dt → (∀ j : Nat, j < k → j * dt < r) →
      (after 0).value = e.value
        ∧ (∀ j : Nat, j + 1 < k → (after (j + 1)).value < (after j).value)
        ∧ (∀ j : Nat, (j : Rat) * dt = r / 2 → (after j).value = e.value / 2)
        ∧ (after k).stage = .idle ∧ (after k).value = 0

/-- 42_envelope.md R159 item 4: the first update after a retrigger moves the value by at most the
steepest slope of the Attack curve, (15/8) · dt / a. -/
def Obligations.RetriggerStepIsBoundedByTheSlope : Prop :=
  ∀ (tok : Byte) (sus dt ap dp rp : Rat) (e : Envelope), 0 ≤ e.value → e.value ≤ 1 → 0 ≤ sus →
    sus ≤ 1 → 0 < dt →
    ¬ ((e.stage = .attack ∨ e.stage = .decay ∨ e.stage = .sustain) ∧ e.note = tok) →
      |(envUpdate dt ap dp rp (envStart tok sus e)).value - e.value|
        ≤ 15 / 8 * dt / max ap (f32 0x3A83126F#32)

/-- 70_reset_and_hazards.md R285: a note whose START and END are applied at one buffer start, from Idle,
makes no sound: it is in Release from origin 0, and after any number of updates the origin and the value
are 0. -/
def Obligations.NoteWithinOneBufferIsLost : Prop :=
  ∀ (tok : Byte) (sus dt ap dp rp : Rat) (e : Envelope), e.stage = .idle → e.value = 0 →
    let x := envEnd (some tok) (envStart tok sus e)
    x.stage = .release
      ∧ ∀ k : Nat,
          ((envUpdate dt ap dp rp)^[k] x).origin = 0 ∧ ((envUpdate dt ap dp rp)^[k] x).value = 0

/-! ### binary32 and the reference arithmetic -/

/-- 00_scope.md R8, R9: toF32 gives the nearest binary32 word, ties to even, up to the largest finite
value. That a negative number keeps its sign where it rounds to 0 is the model's reading (log entry
6). -/
def Obligations.ToF32RoundsToNearestEven : Prop :=
  ∀ q : Rat, |q| ≤ f32 0x7F7FFFFF#32 → IsToF32 (q : ℝ) (toF32 q)

/-- 00_scope.md R8: reading a finite word and writing it back is exact (the word of -0.0 apart, whose
value 0 is written as +0.0). -/
def Obligations.ToF32OfF32IsTheWord : Prop :=
  ∀ w : Word, isFinite w = true → w ≠ 0x80000000#32 → toF32 (f32 w) = w

/-- 40_oscillator.md R106: at every precision the model's enclosure of the sine of an exact phase holds
sin(2π · φ). -/
def Obligations.SineEnclosureHoldsTheSine : Prop :=
  ∀ (p : Nat) (φ : Rat), (sinPoint p φ).encloses (Real.sin (2 * Real.pi * (φ : ℝ)))

/-- 41_unison.md R134, 44_control.md R241: at every precision the model's enclosure holds 2^x. -/
def Obligations.Exp2EnclosureHoldsThePower : Prop :=
  ∀ (p : Nat) (x : Rat), (exp2Enclosure p x).encloses ((2 : ℝ) ^ (x : ℝ))

/-- 00_scope.md R7: at every precision, and for every operand, the enclosure the model computes holds the
exact real the pseudocode of 40_oscillator.md and 41_unison.md gives, the exact number the model keeps
beside it is that real, and a sum its test finds to be 0 is 0 (log entry 5). -/
def Obligations.EnclosureHoldsTheExactSample : Prop :=
  (∀ (p : Nat) (keep : Bool) (o : FrameOperands),
      (sampleOut (Numerics.tracked p keep) o).tracks (sampleOut Numerics.real o))
    ∧ ∀ x : Exact, x.isZero = true → x.value = 0

/-- 43_engine.md R194, R197: the model's frame word is toF32 of the exact real `E.value · MIX_VOICES(…)`
wherever one of the model's precisions settles the rounding, ties and exact zeros that its exact numbers
find among them (log entry 5). -/
def Obligations.ReferenceWordIsTheRoundedExactSample : Prop :=
  ∀ o : FrameOperands, o.legal → o.settles → IsToF32 (sampleOut Numerics.real o) (referenceWord o)

/-- 43_engine.md R199: from legal operands every frame word of the reference is finite. -/
def Obligations.ReferenceWordIsFinite : Prop :=
  ∀ o : FrameOperands, o.legal → isFinite (referenceWord o) = true

/-- 40_oscillator.md R101, R103 to R110, R112, R114: OSC_SAMPLE over the exact reals, for every operand of
R100, in formulas of its own. For R = 1 it is the waveform at fract(f · t); for R > 1 it is the mean of the
smoothed outputs of the low-pass filter over the R sub-steps, with the square's amplitude 4/5. It lies in
[-1, 1], and a Triangle lies in [0, 1]. -/
def Obligations.OscillatorStaysInRange : Prop :=
  ∀ (kind : WaveKind) (f : ℝ) (t sr : Rat) (r : Nat) (al st : Rat), 1 ≤ r → r ≤ 16 → 0 ≤ al →
    al ≤ 1 → 0 ≤ st → st ≤ 1 / 2 →
      let x := oscSample Numerics.real kind f t sr r al st
      let amp : ℝ := if r = 1 then 1 else 4 / 5
      let wave (φ : ℝ) : ℝ :=
        match kind with
        | .sine => Real.sin (2 * Real.pi * φ)
        | .triangle => 1 - |2 * φ - 1|
        | .square => if φ < 1 / 2 then amp else -amp
        | .sawtooth => 2 * φ - 1
      let sub (k : Nat) : ℝ := wave (Int.fract (f * ((t : ℝ) + (k : ℝ) / ((r : ℝ) * (sr : ℝ)))))
      (-1 ≤ x ∧ x ≤ 1) ∧ (kind = .triangle → 0 ≤ x)
        ∧ (r = 1 → x = wave (Int.fract (f * (t : ℝ))))
        ∧ (r ≠ 1 → ∀ p : Nat → ℝ, p 0 = sub 0 →
            (∀ k : Nat, p (k + 1) = p k + (al : ℝ) * (sub (k + 1) - p k)) →
              x
                = (∑ k ∈ Finset.range r, min (max (p k * (1 - |p k| * (st : ℝ))) (-1)) 1) / (r : ℝ))

/-- 41_unison.md R131: VALIDATE_UNISON falls back to (1, 0) for a non-finite detune, clamps both
otherwise, and is the identity on legal values. -/
def Obligations.ValidateUnisonClampsOrFallsBack : Prop :=
  ∀ (v : Nat) (d : Word),
    (isFinite d = false → validateUnison v d = (1, 0))
      ∧ (isFinite d = true → validateUnison v d = (min (max v 1) 8, min (max (f32 d) 0) 100))
      ∧ (1 ≤ v → v ≤ 8 → isFinite d = true → 0 ≤ f32 d → f32 d ≤ 100 →
          validateUnison v d = (v, f32 d))

/-- 41_unison.md R133: the V voice offsets run from -D/2 to +D/2 in equal steps of D/(V - 1), with total
spread D, symmetric about 0. -/
def Obligations.VoiceOffsetsSpreadSymmetrically : Prop :=
  ∀ (v : Nat) (d : Rat), 2 ≤ v →
    voiceOffset v d 0 = -d / 2 ∧ voiceOffset v d (v - 1) = d / 2
      ∧ (∀ i : Nat, voiceOffset v d (i + 1) - voiceOffset v d i = d / ((v : Rat) - 1))
      ∧ (∀ i : Nat, i < v → voiceOffset v d i = -voiceOffset v d (v - 1 - i))

/-- 41_unison.md R132 to R136: the mix over the exact reals lies in [-1, 1]; one voice, or no detune, is the
oscillator at the base frequency; several voices are the mean of the oscillators at f · 2^(o/1200), with
offsets o from -D/2 to D/2; and each voice's frequency converts back to its offset in cents. -/
def Obligations.UnisonMixStaysInRangeAndReducesToOneVoice : Prop :=
  ∀ (kind : WaveKind) (f : ℝ) (v : Nat) (d : Word) (t sr : Rat) (r : Nat) (al st : Rat), 0 < f →
    1 ≤ r → r ≤ 16 → 0 ≤ al → al ≤ 1 → 0 ≤ st → st ≤ 1 / 2 →
      let x := mixVoices Numerics.real f kind v d t sr r al st
      (-1 ≤ x ∧ x ≤ 1)
        ∧ (v = 1 ∨ (isFinite d = true ∧ f32 d = 0) →
            x = oscSample Numerics.real kind f t sr r al st)
        ∧ (isFinite d = true →
            let n : Nat := min (max v 1) 8
            let spread : ℝ := ((min (max (f32 d) 0) 100 : Rat) : ℝ)
            n ≠ 1 →
              x
                = (∑ i ∈ Finset.range n,
                    oscSample Numerics.real kind
                      (f * (2 : ℝ) ^ ((-spread / 2 + (i : ℝ) * spread / ((n : ℝ) - 1)) / 1200))
                      t sr r al st)
                  / (n : ℝ))
        ∧ (∀ (q : Rat) (i : Nat), 2 ≤ v →
            1200 * Real.logb 2 (f * Numerics.real.exp2 (voiceOffset v q i / 1200) / f)
              = (voiceOffset v q i : ℝ))

/-- 40_oscillator.md R113: for every realization with the named properties, the mix still lies in
[-1, 1], and at time 0 a sine in direct mode is exactly 0 (SIN_ZERO), however many voices sound. -/
def Obligations.RealizedMixStaysInRange : Prop :=
  ∀ (sinTurns exp2 : ℝ → ℝ) (tol : ℝ), NamedProperties sinTurns exp2 tol →
    ∀ (kind : WaveKind) (f : ℝ) (v : Nat) (d : Word) (t sr : Rat) (r : Nat) (al st : Rat), 1 ≤ r →
      r ≤ 16 → 0 ≤ al → al ≤ 1 → 0 ≤ st → st ≤ 1 / 2 →
        let x := mixVoices (Numerics.realized sinTurns exp2) f kind v d t sr r al st
        (-1 ≤ x ∧ x ≤ 1) ∧ (kind = .sine → r = 1 → t = 0 → x = 0)

/-! ### Whole-machine rules -/

/-- 70_reset_and_hazards.md R280: the reset value of every piece of state: what GET_REG reads of each
register (and of the first reserved index), the snapshot, the envelope, the queue and FILLCTX. -/
def Obligations.ResetStateIsAsTheSpecSays : Prop :=
  (List.range 0x15).map (fun i => readReg (BitVec.ofNat 8 i) State.reset)
      = [0x00000000#32, 0#32, 1#32, 0x00000000#32, 0x3C23D70A#32, 0x3DCCCCCD#32, 0x3F333333#32,
          0x3E4CCCCD#32, 1#32, 0x3F800000#32, 0x00000000#32, 0x00000000#32, 0x00000000#32, 0#32,
          0x00000000#32, 0x00000000#32, 0#32, 0x00000000#32, 0#32, 0x53594E07#32, 0x00000000#32]
    ∧ State.reset.snap = State.reset.param
    ∧ State.reset.env
        = { stage := .idle, value := 0, elapsed := 0, origin := 0, susSnap := 0, note := 0#8,
            noteValid := false }
    ∧ State.reset.evq = []
    ∧ State.reset.fill
        = { fip := false, fn := 0#32, fj := 0#32, fbuf := 0#32, badBuf := false, stopPend := false }

/-- 10_state.md R53: the reset state meets the invariant. -/
def Obligations.ResetMeetsTheInvariant : Prop := State.reset.Inv

/-- 10_state.md R53: every step keeps the invariant, from every state that meets it, for every input and
every snapshot draw, and so does every step of any realization: legal registers, the envelope's bounds,
at most 16 events, nothing queued or in progress while stopped, and the canonical form of the memory. -/
def Obligations.EveryStepKeepsTheInvariant : Prop :=
  (∀ s t : State, s.Inv → step s = .next t → t.Inv)
    ∧ ∀ (R : Realization) (s t : State), s.Inv → stepOf R s = .next t → t.Inv

/-- 10_state.md R35, 60_exceptions.md R261, R264: a sticky STATUS bit that is set stays set through every
step but a CLR_STATUS. -/
def Obligations.StickyBitsAreClearedOnlyByClrStatus : Prop :=
  ∀ s t : State, step s = .next t →
    (s.status.badCmd = true ∧ t.status.badCmd = false)
        ∨ (s.status.evqOvf = true ∧ t.status.evqOvf = false)
        ∨ (s.status.setupErr = true ∧ t.status.setupErr = false)
        ∨ (s.status.silenced = true ∧ t.status.silenced = false)
        ∨ (s.status.fillIdle = true ∧ t.status.fillIdle = false) →
      ∃ (tx : Transaction) (rest : List Input),
        s.inputs = .port tx :: rest ∧ decode tx = .ok .clrStatus

/-- 10_state.md R34: RUNNING is set only by a STREAM_START at an accepted rate, and cleared only by a
STREAM_STOP with no FILL in progress or by the buffer end of a FILL with a stop pending. -/
def Obligations.RunningChangesOnlyByTransport : Prop :=
  ∀ s t : State, step s = .next t →
    (s.status.running = false → t.status.running = true →
        ∃ (tx : Transaction) (rest : List Input) (w : Word),
          s.inputs = .port tx :: rest ∧ decode tx = .ok (.streamStart w) ∧ isFinite w = true
            ∧ 0 < f32 w)
      ∧ (s.status.running = true → t.status.running = false →
          (s.fill.fip = false
              ∧ ∃ (tx : Transaction) (rest : List Input),
                  s.inputs = .port tx :: rest ∧ decode tx = .ok .streamStop)
            ∨ (s.fill.fip = true ∧ s.fill.stopPend = true ∧ s.fill.fn.toNat ≤ s.fill.fj.toNat
                ∧ ∀ (tx : Transaction) (rest : List Input), s.inputs ≠ .port tx :: rest))

/-- 60_exceptions.md R263, 20_memory.md R70: the block has no trap: a state that meets the invariant
never faults. -/
def Obligations.InvariantStatesNeverFault : Prop :=
  ∀ (s : State) (f : Fault), s.Inv → step s ≠ .fault f

/-- 70_reset_and_hazards.md R293: a step is refused only when its input is a FILL request with a
misaligned buffer or with another FILL in progress. -/
def Obligations.OnlyHostDutyBreachesAreRefused : Prop :=
  ∀ (s : State) (x : Refusal), step s = .refused x →
    ∃ (fn fbuf : Word) (rest : List Input),
      s.inputs = .port (.audio fn fbuf) :: rest
        ∧ ((x = .fillMisaligned ∧ fbuf.toNat % 4 ≠ 0)
            ∨ (x = .fillOutstanding ∧ fbuf.toNat % 4 = 0 ∧ s.fill.fip = true))

/-- 43_engine.md R199: in the reference semantics BADBUF is never set, so no step sets SILENCED or
records NONFINITE_OUTPUT. -/
def Obligations.ReferenceNeverSilencesABuffer : Prop :=
  ∀ s t : State, s.Inv → s.fill.badBuf = false → step s = .next t →
    t.fill.badBuf = false
      ∧ (t.status.silenced = true → s.status.silenced = true)
      ∧ (t.lastErr = 0x06#8 → s.lastErr = 0x06#8)

/-! ### Realizations -/

/-- 00_scope.md R8, 43_engine.md R197: a frame of a realization within TOL (`Realization.Conforms`, log
entry 7) writes a word that, where it is finite, differs by at most TOL from the reference word: toF32 of
`E.value · MIX_VOICES(…)`, or of 0 for a silent frame. -/
def Obligations.RealizedFrameIsWithinTol : Prop :=
  ∀ (R : Realization) (s t : State) (w0 : Word), R.Conforms → s.Inv → s.fill.fip = true →
    s.fill.fj.toNat < s.fill.fn.toNat → engineStep R s = .next t →
      let out : ℝ :=
        if t.env.stage = .idle ∨ f32 s.lastFreq = 0 then 0
        else sampleOut Numerics.real (frameOperands s t.env)
      IsToF32 out w0 →
        ∃ w : Word,
          Memory.readWord (s.fill.fbuf.toNat + 4 * s.fill.fj.toNat) t.mem = some w
            ∧ (isFinite w = true → |f32 w - f32 w0| ≤ R.tol)
end

