-- ==== Sys2Proof/Laws/Memory.lean ====
section
/-! SUPPORT. The laws of the output buffer space: what a write leaves at each address, and that every
write keeps the canonical form. -/

namespace Sys2Proof.Machine.Memory

/-! ### Bytes and words -/

@[simp] theorem wordOfBytes_bytesOfWord (w : Word) :
    wordOfBytes (w.extractLsb' 0 8) (w.extractLsb' 8 8) (w.extractLsb' 16 8) (w.extractLsb' 24 8)
      = w := by
  apply BitVec.eq_of_getLsbD_eq
  intro i hi
  simp only [wordOfBytes, BitVec.getLsbD_append, BitVec.getLsbD_extractLsb']
  by_cases h1 : i < 8
  · simp [h1, show i < 16 by omega]
  · by_cases h2 : i < 16
    · simp [h1, h2, show i - 8 < 8 by omega, show 8 + (i - 8) = i by omega]
    · by_cases h3 : i < 24
      · simp [h2, show i - 16 < 8 by omega, show 16 + (i - 16) = i by omega]
      · simp [h2, show ¬ i - 16 < 8 by omega, show i - 16 - 8 < 8 by omega,
          show 24 + (i - 16 - 8) = i by omega]

/-! ### One byte -/

theorem read_write_same (a : Nat) (b : Byte) (m : Memory) : read a (write a b m) = some b := by
  induction m with
  | nil => simp [write, read]
  | cons c m ih =>
    simp only [write]
    split
    · simp [read]
    · split
      · simp [read]
      · rw [read, if_neg (by omega), ih]

theorem read_write_other {a a' : Nat} (h : a' ≠ a) (b : Byte) (m : Memory) :
    read a' (write a b m) = read a' m := by
  induction m with
  | nil => simp [write, read, h.symm]
  | cons c m ih =>
    simp only [write]
    split
    · simp [read, h.symm]
    · split
      · rename_i _ h2
        simp [read, h.symm, ← h2]
      · simp [read, ih]

/-- Every entry of a memory after a write is the new one or an old one. -/
theorem mem_write {c : Host.Cell} {a : Nat} {b : Byte} {m : Memory} (h : c ∈ write a b m) :
    c = (a, b) ∨ c ∈ m := by
  induction m with
  | nil => simpa [write] using h
  | cons d m ih =>
    simp only [write] at h
    split at h
    · simpa using h
    · split at h
      · rcases List.mem_cons.mp h with h | h
        · exact .inl h
        · exact .inr (List.mem_cons_of_mem _ h)
      · rcases List.mem_cons.mp h with h | h
        · exact .inr (by simp [h])
        · exact (ih h).imp_right (List.mem_cons_of_mem _)

theorem wf_write (a : Nat) (b : Byte) {m : Memory} (h : wf m) : wf (write a b m) := by
  induction m with
  | nil => simp [write, wf]
  | cons c m ih =>
    have hm : wf m := List.Pairwise.of_cons h
    have hc : ∀ d ∈ m, c.1 < d.1 := (List.pairwise_cons.mp h).1
    simp only [write]
    split
    · rename_i hac
      refine List.pairwise_cons.mpr ⟨fun d hd => ?_, h⟩
      rcases List.mem_cons.mp hd with rfl | hd
      · exact hac
      · exact hac.trans (hc d hd)
    · split
      · rename_i hac
        exact List.pairwise_cons.mpr ⟨fun d hd => hac ▸ hc d hd, hm⟩
      · refine List.pairwise_cons.mpr ⟨fun d hd => ?_, ih hm⟩
        rcases mem_write hd with rfl | hd
        · show c.1 < a
          omega
        · exact hc d hd

/-! ### Several bytes -/

theorem wf_writeBytes (a : Nat) (bs : List Byte) {m : Memory} (h : wf m) : wf (writeBytes a bs m) := by
  induction bs generalizing a m with
  | nil => exact h
  | cons b bs ih => exact ih (a + 1) (wf_write a b h)

theorem read_writeBytes_other {x : Nat} (a : Nat) (bs : List Byte) (m : Memory)
    (h : x < a ∨ a + bs.length ≤ x) : read x (writeBytes a bs m) = read x m := by
  induction bs generalizing a m with
  | nil => rfl
  | cons b bs ih =>
    simp only [List.length_cons] at h
    rw [writeBytes, ih (a + 1) _ (by omega), read_write_other (by omega)]

theorem wf_writeWord (a : Nat) (w : Word) {m : Memory} (h : wf m) : wf (writeWord a w m) :=
  wf_writeBytes a _ h

/-- A word write leaves every byte outside its four alone. -/
theorem read_writeWord_other {x : Nat} (a : Nat) (w : Word) (m : Memory) (h : x < a ∨ a + 4 ≤ x) :
    read x (writeWord a w m) = read x m :=
  read_writeBytes_other a _ m (by simpa [bytesOfWord] using h)

/-- Each of the four bytes of a written word. -/
theorem read_writeWord_byte (a : Nat) (w : Word) (m : Memory) :
    read a (writeWord a w m) = some (w.extractLsb' 0 8)
      ∧ read (a + 1) (writeWord a w m) = some (w.extractLsb' 8 8)
      ∧ read (a + 2) (writeWord a w m) = some (w.extractLsb' 16 8)
      ∧ read (a + 3) (writeWord a w m) = some (w.extractLsb' 24 8) := by
  simp only [writeWord, bytesOfWord, writeBytes]
  refine ⟨?_, ?_, ?_, read_write_same _ _ _⟩
  · rw [read_write_other (by omega), read_write_other (by omega), read_write_other (by omega),
      read_write_same]
  · rw [read_write_other (by omega), read_write_other (by omega), read_write_same]
  · rw [read_write_other (by omega), read_write_same]

/-- A word reads back as it was written. -/
theorem readWord_writeWord_same (a : Nat) (w : Word) (m : Memory) :
    readWord a (writeWord a w m) = some w := by
  obtain ⟨h0, h1, h2, h3⟩ := read_writeWord_byte a w m
  simp only [readWord, h0, h1, h2, h3, wordOfBytes_bytesOfWord]

/-- A word that shares no byte with the written one reads as before. -/
theorem readWord_writeWord_other {x : Nat} (a : Nat) (w : Word) (m : Memory)
    (h : x + 4 ≤ a ∨ a + 4 ≤ x) : readWord x (writeWord a w m) = readWord x m := by
  simp only [readWord]
  rw [read_writeWord_other a w m (by omega), read_writeWord_other a w m (by omega),
    read_writeWord_other a w m (by omega), read_writeWord_other a w m (by omega)]

/-! ### Silence -/

theorem wf_writeZeros (a n : Nat) {m : Memory} (h : wf m) : wf (writeZeros a n m) := by
  induction n with
  | zero => exact h
  | succ n ih => exact wf_writeWord _ _ ih

theorem read_writeZeros_other {x : Nat} (a n : Nat) (m : Memory) (h : x < a ∨ a + 4 * n ≤ x) :
    read x (writeZeros a n m) = read x m := by
  induction n with
  | zero => rfl
  | succ n ih => rw [writeZeros, read_writeWord_other _ _ _ (by omega), ih (by omega)]

theorem readWord_writeZeros {a n j : Nat} (m : Memory) (h : j < n) :
    readWord (a + 4 * j) (writeZeros a n m) = some 0#32 := by
  induction n with
  | zero => omega
  | succ n ih =>
    rw [writeZeros]
    by_cases hj : j = n
    · rw [hj, readWord_writeWord_same]
    · rw [readWord_writeWord_other _ _ _ (by omega), ih (by omega)]

end Sys2Proof.Machine.Memory
end

