-- ==== Sys2Proof/Laws/PerInstr.lean ====
section
/-! SUPPORT. Statements about every instruction, one lemma for each constructor. Family EncodesTableRow:
the command word of a well-formed instruction meets the match and mask of its row of the opcode table
(30_encoding.md R84). -/

namespace Sys2Proof.Laws.EncodesTableRow

/-- The "CW match" and "CW mask" columns of R84; the audio port's FILL takes any word. -/
def tableRow : Instr → Word × Word
  | .noteOn _ _ => (0x01000000#32, 0xFF8080FF#32)
  | .noteOff _ => (0x02000000#32, 0xFF80FFFF#32)
  | .gateOn _ => (0x03000000#32, 0xFF00FFFF#32)
  | .gateOff => (0x04000000#32, 0xFFFFFFFF#32)
  | .setFreq _ => (0x10000000#32, 0xFFFFFFFF#32)
  | .setWave _ => (0x11000000#32, 0xFFFCFFFF#32)
  | .setVoices _ => (0x12000000#32, 0xFF00FFFF#32)
  | .setDetune _ => (0x13000000#32, 0xFFFFFFFF#32)
  | .setAttack _ => (0x14000000#32, 0xFFFFFFFF#32)
  | .setDecay _ => (0x15000000#32, 0xFFFFFFFF#32)
  | .setSustain _ => (0x16000000#32, 0xFFFFFFFF#32)
  | .setRelease _ => (0x17000000#32, 0xFFFFFFFF#32)
  | .setOsr _ => (0x18000000#32, 0xFF00FFFF#32)
  | .setAlpha _ => (0x19000000#32, 0xFFFFFFFF#32)
  | .setStrength _ => (0x1A000000#32, 0xFFFFFFFF#32)
  | .streamStart _ => (0x20000000#32, 0xFFFFFFFF#32)
  | .streamStop => (0x21000000#32, 0xFFFFFFFF#32)
  | .getReg _ => (0x30000000#32, 0xFF00FFFF#32)
  | .clrStatus => (0x31000000#32, 0xFFFFFFFF#32)
  | .fill _ _ => (0x00000000#32, 0x00000000#32)

/-- The first word of a transaction. -/
def firstWord : Transaction → Word
  | .control cw _ => cw
  | .audio fw _ => fw

/-- The first word of the encoding agrees with the table's match wherever the mask is set. -/
def Statement (i : Instr) : Prop :=
  i.wf = true → firstWord (encode i) &&& (tableRow i).2 = (tableRow i).1

/-- Every one-byte operand, by evaluation. -/
theorem of_byte {f : Byte → Instr} (h : ∀ a : Byte, (f a).wf = true →
    firstWord (encode (f a)) &&& (tableRow (f a)).2 = (tableRow (f a)).1) (a : Byte) :
    Statement (f a) := h a

/-- A field of seven bits, masked by 0x80, leaves nothing. -/
theorem high_bit_clear {a : Byte} (h : a.toNat ≤ 127) : a &&& 0x80#8 = 0#8 := by
  have : ∀ a : Byte, a.toNat ≤ 127 → a &&& 0x80#8 = 0#8 := by decide +kernel
  exact this a h

theorem noteOn (note vel : Byte) : Statement (.noteOn note vel) := by
  intro h
  simp only [Instr.wf, Bool.and_eq_true, decide_eq_true_eq] at h
  have h1 := high_bit_clear h.1
  have h2 := high_bit_clear h.2
  have hm : (0xFF8080FF#32 : Word) = (0xFF#8 ++ 0x80#8) ++ (0x80#8 ++ 0xFF#8) := by decide
  show packWord _ note vel 0#8 &&& 0xFF8080FF#32 = 0x01000000#32
  rw [hm, packWord, BitVec.and_append, BitVec.and_append, BitVec.and_append, h1, h2]
  decide
theorem noteOff (note : Byte) : Statement (.noteOff note) := of_byte (by decide +kernel) note
theorem gateOn (tok : Byte) : Statement (.gateOn tok) := of_byte (by decide +kernel) tok
theorem gateOff : Statement .gateOff := fun _ => by decide
theorem setFreq (w : Word) : Statement (.setFreq w) := fun _ =>
  (by decide : plainWord .setFreq &&& 0xFFFFFFFF#32 = 0x10000000#32)
theorem setWave (kind : Byte) : Statement (.setWave kind) := of_byte (by decide +kernel) kind
theorem setVoices (count : Byte) : Statement (.setVoices count) := of_byte (by decide +kernel) count
theorem setDetune (w : Word) : Statement (.setDetune w) := fun _ =>
  (by decide : plainWord .setDetune &&& 0xFFFFFFFF#32 = 0x13000000#32)
theorem setAttack (w : Word) : Statement (.setAttack w) := fun _ =>
  (by decide : plainWord .setAttack &&& 0xFFFFFFFF#32 = 0x14000000#32)
theorem setDecay (w : Word) : Statement (.setDecay w) := fun _ =>
  (by decide : plainWord .setDecay &&& 0xFFFFFFFF#32 = 0x15000000#32)
theorem setSustain (w : Word) : Statement (.setSustain w) := fun _ =>
  (by decide : plainWord .setSustain &&& 0xFFFFFFFF#32 = 0x16000000#32)
theorem setRelease (w : Word) : Statement (.setRelease w) := fun _ =>
  (by decide : plainWord .setRelease &&& 0xFFFFFFFF#32 = 0x17000000#32)
theorem setOsr (ratio : Byte) : Statement (.setOsr ratio) := of_byte (by decide +kernel) ratio
theorem setAlpha (w : Word) : Statement (.setAlpha w) := fun _ =>
  (by decide : plainWord .setAlpha &&& 0xFFFFFFFF#32 = 0x19000000#32)
theorem setStrength (w : Word) : Statement (.setStrength w) := fun _ =>
  (by decide : plainWord .setStrength &&& 0xFFFFFFFF#32 = 0x1A000000#32)
theorem streamStart (w : Word) : Statement (.streamStart w) := fun _ =>
  (by decide : plainWord .streamStart &&& 0xFFFFFFFF#32 = 0x20000000#32)
theorem streamStop : Statement .streamStop := fun _ => rfl
theorem getReg (idx : Byte) : Statement (.getReg idx) := of_byte (by decide +kernel) idx
theorem clrStatus : Statement .clrStatus := fun _ => rfl
theorem fill (fn fbuf : Word) : Statement (.fill fn fbuf) := fun _ => by
  show fn &&& 0#32 = 0#32
  simp

end Sys2Proof.Laws.EncodesTableRow
end

