-- ==== Sys2Proof/Laws/State.lean ====
section
/-! SUPPORT. What each update of the state does to each field: one lemma per field per update, true by
rfl, so that no proof unfolds a record update. -/

namespace Sys2Proof.Machine

/-! ### State.raise -/

@[simp] theorem State.raise_param (s : State) (c : Condition) : (s.raise c).param = s.param := rfl
@[simp] theorem State.raise_srate (s : State) (c : Condition) : (s.raise c).srate = s.srate := rfl
@[simp] theorem State.raise_status (s : State) (c : Condition) :
    (s.raise c).status = s.status.record c := rfl
@[simp] theorem State.raise_lastErr (s : State) (c : Condition) :
    (s.raise c).lastErr = c.code := rfl
@[simp] theorem State.raise_snap (s : State) (c : Condition) : (s.raise c).snap = s.snap := rfl
@[simp] theorem State.raise_env (s : State) (c : Condition) : (s.raise c).env = s.env := rfl
@[simp] theorem State.raise_n (s : State) (c : Condition) : (s.raise c).n = s.n := rfl
@[simp] theorem State.raise_lastFreq (s : State) (c : Condition) :
    (s.raise c).lastFreq = s.lastFreq := rfl
@[simp] theorem State.raise_evq (s : State) (c : Condition) : (s.raise c).evq = s.evq := rfl
@[simp] theorem State.raise_fill (s : State) (c : Condition) : (s.raise c).fill = s.fill := rfl
@[simp] theorem State.raise_mem (s : State) (c : Condition) : (s.raise c).mem = s.mem := rfl
@[simp] theorem State.raise_replies (s : State) (c : Condition) :
    (s.raise c).replies = s.replies := rfl
@[simp] theorem State.raise_inputs (s : State) (c : Condition) :
    (s.raise c).inputs = s.inputs := rfl
@[simp] theorem State.raise_draws (s : State) (c : Condition) : (s.raise c).draws = s.draws := rfl

/-! ### State.clearConditions -/

@[simp] theorem State.clearConditions_param (s : State) : (s.clearConditions).param = s.param := rfl
@[simp] theorem State.clearConditions_srate (s : State) : (s.clearConditions).srate = s.srate := rfl
@[simp] theorem State.clearConditions_status (s : State) :
    (s.clearConditions).status = s.status.clearSticky := rfl
@[simp] theorem State.clearConditions_lastErr (s : State) : (s.clearConditions).lastErr = 0#8 := rfl
@[simp] theorem State.clearConditions_snap (s : State) : (s.clearConditions).snap = s.snap := rfl
@[simp] theorem State.clearConditions_env (s : State) : (s.clearConditions).env = s.env := rfl
@[simp] theorem State.clearConditions_n (s : State) : (s.clearConditions).n = s.n := rfl
@[simp] theorem State.clearConditions_lastFreq (s : State) :
    (s.clearConditions).lastFreq = s.lastFreq := rfl
@[simp] theorem State.clearConditions_evq (s : State) : (s.clearConditions).evq = s.evq := rfl
@[simp] theorem State.clearConditions_fill (s : State) : (s.clearConditions).fill = s.fill := rfl
@[simp] theorem State.clearConditions_mem (s : State) : (s.clearConditions).mem = s.mem := rfl
@[simp] theorem State.clearConditions_replies (s : State) :
    (s.clearConditions).replies = s.replies := rfl
@[simp] theorem State.clearConditions_inputs (s : State) :
    (s.clearConditions).inputs = s.inputs := rfl
@[simp] theorem State.clearConditions_draws (s : State) : (s.clearConditions).draws = s.draws := rfl

/-! ### State.endSession -/

@[simp] theorem State.endSession_param (s : State) : (s.endSession).param = s.param := rfl
@[simp] theorem State.endSession_srate (s : State) : (s.endSession).srate = s.srate := rfl
@[simp] theorem State.endSession_status (s : State) :
    (s.endSession).status = { s.status with running := false } := rfl
@[simp] theorem State.endSession_lastErr (s : State) : (s.endSession).lastErr = s.lastErr := rfl
@[simp] theorem State.endSession_snap (s : State) : (s.endSession).snap = s.snap := rfl
@[simp] theorem State.endSession_env (s : State) : (s.endSession).env = s.env := rfl
@[simp] theorem State.endSession_n (s : State) : (s.endSession).n = s.n := rfl
@[simp] theorem State.endSession_lastFreq (s : State) : (s.endSession).lastFreq = s.lastFreq := rfl
@[simp] theorem State.endSession_evq (s : State) : (s.endSession).evq = [] := rfl
@[simp] theorem State.endSession_fill (s : State) : (s.endSession).fill = s.fill := rfl
@[simp] theorem State.endSession_mem (s : State) : (s.endSession).mem = s.mem := rfl
@[simp] theorem State.endSession_replies (s : State) : (s.endSession).replies = s.replies := rfl
@[simp] theorem State.endSession_inputs (s : State) : (s.endSession).inputs = s.inputs := rfl
@[simp] theorem State.endSession_draws (s : State) : (s.endSession).draws = s.draws := rfl

/-! ### State.reply -/

@[simp] theorem State.reply_param (s : State) (w : Word) : (s.reply w).param = s.param := rfl
@[simp] theorem State.reply_srate (s : State) (w : Word) : (s.reply w).srate = s.srate := rfl
@[simp] theorem State.reply_status (s : State) (w : Word) : (s.reply w).status = s.status := rfl
@[simp] theorem State.reply_lastErr (s : State) (w : Word) : (s.reply w).lastErr = s.lastErr := rfl
@[simp] theorem State.reply_snap (s : State) (w : Word) : (s.reply w).snap = s.snap := rfl
@[simp] theorem State.reply_env (s : State) (w : Word) : (s.reply w).env = s.env := rfl
@[simp] theorem State.reply_n (s : State) (w : Word) : (s.reply w).n = s.n := rfl
@[simp] theorem State.reply_lastFreq (s : State) (w : Word) :
    (s.reply w).lastFreq = s.lastFreq := rfl
@[simp] theorem State.reply_evq (s : State) (w : Word) : (s.reply w).evq = s.evq := rfl
@[simp] theorem State.reply_fill (s : State) (w : Word) : (s.reply w).fill = s.fill := rfl
@[simp] theorem State.reply_mem (s : State) (w : Word) : (s.reply w).mem = s.mem := rfl
@[simp] theorem State.reply_replies (s : State) (w : Word) :
    (s.reply w).replies = s.replies ++ [w] := rfl
@[simp] theorem State.reply_inputs (s : State) (w : Word) : (s.reply w).inputs = s.inputs := rfl
@[simp] theorem State.reply_draws (s : State) (w : Word) : (s.reply w).draws = s.draws := rfl

/-! ### State.arrive -/

@[simp] theorem State.arrive_param (s : State) (t : Transaction) :
    (s.arrive t).param = s.param := rfl
@[simp] theorem State.arrive_srate (s : State) (t : Transaction) :
    (s.arrive t).srate = s.srate := rfl
@[simp] theorem State.arrive_status (s : State) (t : Transaction) :
    (s.arrive t).status = s.status := rfl
@[simp] theorem State.arrive_lastErr (s : State) (t : Transaction) :
    (s.arrive t).lastErr = s.lastErr := rfl
@[simp] theorem State.arrive_snap (s : State) (t : Transaction) : (s.arrive t).snap = s.snap := rfl
@[simp] theorem State.arrive_env (s : State) (t : Transaction) : (s.arrive t).env = s.env := rfl
@[simp] theorem State.arrive_n (s : State) (t : Transaction) : (s.arrive t).n = s.n := rfl
@[simp] theorem State.arrive_lastFreq (s : State) (t : Transaction) :
    (s.arrive t).lastFreq = s.lastFreq := rfl
@[simp] theorem State.arrive_evq (s : State) (t : Transaction) : (s.arrive t).evq = s.evq := rfl
@[simp] theorem State.arrive_fill (s : State) (t : Transaction) : (s.arrive t).fill = s.fill := rfl
@[simp] theorem State.arrive_mem (s : State) (t : Transaction) : (s.arrive t).mem = s.mem := rfl
@[simp] theorem State.arrive_replies (s : State) (t : Transaction) :
    (s.arrive t).replies = s.replies := rfl
@[simp] theorem State.arrive_inputs (s : State) (t : Transaction) :
    (s.arrive t).inputs = .port t :: s.inputs := rfl
@[simp] theorem State.arrive_draws (s : State) (t : Transaction) :
    (s.arrive t).draws = s.draws := rfl

/-! ### State.setFreqGroup -/

@[simp] theorem State.setFreqGroup_param (s : State) (g : FreqGroup) :
    (s.setFreqGroup g).param = { s.param with freqGroup := g } := rfl
@[simp] theorem State.setFreqGroup_srate (s : State) (g : FreqGroup) :
    (s.setFreqGroup g).srate = s.srate := rfl
@[simp] theorem State.setFreqGroup_status (s : State) (g : FreqGroup) :
    (s.setFreqGroup g).status = s.status := rfl
@[simp] theorem State.setFreqGroup_lastErr (s : State) (g : FreqGroup) :
    (s.setFreqGroup g).lastErr = s.lastErr := rfl
@[simp] theorem State.setFreqGroup_snap (s : State) (g : FreqGroup) :
    (s.setFreqGroup g).snap = s.snap := rfl
@[simp] theorem State.setFreqGroup_env (s : State) (g : FreqGroup) :
    (s.setFreqGroup g).env = s.env := rfl
@[simp] theorem State.setFreqGroup_n (s : State) (g : FreqGroup) : (s.setFreqGroup g).n = s.n := rfl
@[simp] theorem State.setFreqGroup_lastFreq (s : State) (g : FreqGroup) :
    (s.setFreqGroup g).lastFreq = s.lastFreq := rfl
@[simp] theorem State.setFreqGroup_evq (s : State) (g : FreqGroup) :
    (s.setFreqGroup g).evq = s.evq := rfl
@[simp] theorem State.setFreqGroup_fill (s : State) (g : FreqGroup) :
    (s.setFreqGroup g).fill = s.fill := rfl
@[simp] theorem State.setFreqGroup_mem (s : State) (g : FreqGroup) :
    (s.setFreqGroup g).mem = s.mem := rfl
@[simp] theorem State.setFreqGroup_replies (s : State) (g : FreqGroup) :
    (s.setFreqGroup g).replies = s.replies := rfl
@[simp] theorem State.setFreqGroup_inputs (s : State) (g : FreqGroup) :
    (s.setFreqGroup g).inputs = s.inputs := rfl
@[simp] theorem State.setFreqGroup_draws (s : State) (g : FreqGroup) :
    (s.setFreqGroup g).draws = s.draws := rfl

/-! ### State.setVoiceGroup -/

@[simp] theorem State.setVoiceGroup_param (s : State) (g : VoiceGroup) :
    (s.setVoiceGroup g).param = { s.param with voiceGroup := g } := rfl
@[simp] theorem State.setVoiceGroup_srate (s : State) (g : VoiceGroup) :
    (s.setVoiceGroup g).srate = s.srate := rfl
@[simp] theorem State.setVoiceGroup_status (s : State) (g : VoiceGroup) :
    (s.setVoiceGroup g).status = s.status := rfl
@[simp] theorem State.setVoiceGroup_lastErr (s : State) (g : VoiceGroup) :
    (s.setVoiceGroup g).lastErr = s.lastErr := rfl
@[simp] theorem State.setVoiceGroup_snap (s : State) (g : VoiceGroup) :
    (s.setVoiceGroup g).snap = s.snap := rfl
@[simp] theorem State.setVoiceGroup_env (s : State) (g : VoiceGroup) :
    (s.setVoiceGroup g).env = s.env := rfl
@[simp] theorem State.setVoiceGroup_n (s : State) (g : VoiceGroup) :
    (s.setVoiceGroup g).n = s.n := rfl
@[simp] theorem State.setVoiceGroup_lastFreq (s : State) (g : VoiceGroup) :
    (s.setVoiceGroup g).lastFreq = s.lastFreq := rfl
@[simp] theorem State.setVoiceGroup_evq (s : State) (g : VoiceGroup) :
    (s.setVoiceGroup g).evq = s.evq := rfl
@[simp] theorem State.setVoiceGroup_fill (s : State) (g : VoiceGroup) :
    (s.setVoiceGroup g).fill = s.fill := rfl
@[simp] theorem State.setVoiceGroup_mem (s : State) (g : VoiceGroup) :
    (s.setVoiceGroup g).mem = s.mem := rfl
@[simp] theorem State.setVoiceGroup_replies (s : State) (g : VoiceGroup) :
    (s.setVoiceGroup g).replies = s.replies := rfl
@[simp] theorem State.setVoiceGroup_inputs (s : State) (g : VoiceGroup) :
    (s.setVoiceGroup g).inputs = s.inputs := rfl
@[simp] theorem State.setVoiceGroup_draws (s : State) (g : VoiceGroup) :
    (s.setVoiceGroup g).draws = s.draws := rfl

/-! ### State.setEnvpGroup -/

@[simp] theorem State.setEnvpGroup_param (s : State) (g : EnvpGroup) :
    (s.setEnvpGroup g).param = { s.param with envpGroup := g } := rfl
@[simp] theorem State.setEnvpGroup_srate (s : State) (g : EnvpGroup) :
    (s.setEnvpGroup g).srate = s.srate := rfl
@[simp] theorem State.setEnvpGroup_status (s : State) (g : EnvpGroup) :
    (s.setEnvpGroup g).status = s.status := rfl
@[simp] theorem State.setEnvpGroup_lastErr (s : State) (g : EnvpGroup) :
    (s.setEnvpGroup g).lastErr = s.lastErr := rfl
@[simp] theorem State.setEnvpGroup_snap (s : State) (g : EnvpGroup) :
    (s.setEnvpGroup g).snap = s.snap := rfl
@[simp] theorem State.setEnvpGroup_env (s : State) (g : EnvpGroup) :
    (s.setEnvpGroup g).env = s.env := rfl
@[simp] theorem State.setEnvpGroup_n (s : State) (g : EnvpGroup) : (s.setEnvpGroup g).n = s.n := rfl
@[simp] theorem State.setEnvpGroup_lastFreq (s : State) (g : EnvpGroup) :
    (s.setEnvpGroup g).lastFreq = s.lastFreq := rfl
@[simp] theorem State.setEnvpGroup_evq (s : State) (g : EnvpGroup) :
    (s.setEnvpGroup g).evq = s.evq := rfl
@[simp] theorem State.setEnvpGroup_fill (s : State) (g : EnvpGroup) :
    (s.setEnvpGroup g).fill = s.fill := rfl
@[simp] theorem State.setEnvpGroup_mem (s : State) (g : EnvpGroup) :
    (s.setEnvpGroup g).mem = s.mem := rfl
@[simp] theorem State.setEnvpGroup_replies (s : State) (g : EnvpGroup) :
    (s.setEnvpGroup g).replies = s.replies := rfl
@[simp] theorem State.setEnvpGroup_inputs (s : State) (g : EnvpGroup) :
    (s.setEnvpGroup g).inputs = s.inputs := rfl
@[simp] theorem State.setEnvpGroup_draws (s : State) (g : EnvpGroup) :
    (s.setEnvpGroup g).draws = s.draws := rfl

/-! ### State.setQualGroup -/

@[simp] theorem State.setQualGroup_param (s : State) (g : QualGroup) :
    (s.setQualGroup g).param = { s.param with qualGroup := g } := rfl
@[simp] theorem State.setQualGroup_srate (s : State) (g : QualGroup) :
    (s.setQualGroup g).srate = s.srate := rfl
@[simp] theorem State.setQualGroup_status (s : State) (g : QualGroup) :
    (s.setQualGroup g).status = s.status := rfl
@[simp] theorem State.setQualGroup_lastErr (s : State) (g : QualGroup) :
    (s.setQualGroup g).lastErr = s.lastErr := rfl
@[simp] theorem State.setQualGroup_snap (s : State) (g : QualGroup) :
    (s.setQualGroup g).snap = s.snap := rfl
@[simp] theorem State.setQualGroup_env (s : State) (g : QualGroup) :
    (s.setQualGroup g).env = s.env := rfl
@[simp] theorem State.setQualGroup_n (s : State) (g : QualGroup) : (s.setQualGroup g).n = s.n := rfl
@[simp] theorem State.setQualGroup_lastFreq (s : State) (g : QualGroup) :
    (s.setQualGroup g).lastFreq = s.lastFreq := rfl
@[simp] theorem State.setQualGroup_evq (s : State) (g : QualGroup) :
    (s.setQualGroup g).evq = s.evq := rfl
@[simp] theorem State.setQualGroup_fill (s : State) (g : QualGroup) :
    (s.setQualGroup g).fill = s.fill := rfl
@[simp] theorem State.setQualGroup_mem (s : State) (g : QualGroup) :
    (s.setQualGroup g).mem = s.mem := rfl
@[simp] theorem State.setQualGroup_replies (s : State) (g : QualGroup) :
    (s.setQualGroup g).replies = s.replies := rfl
@[simp] theorem State.setQualGroup_inputs (s : State) (g : QualGroup) :
    (s.setQualGroup g).inputs = s.inputs := rfl
@[simp] theorem State.setQualGroup_draws (s : State) (g : QualGroup) :
    (s.setQualGroup g).draws = s.draws := rfl

/-! ### State.beginSession -/

@[simp] theorem State.beginSession_param (s : State) (r : Word) :
    (s.beginSession r).param = s.param := rfl
@[simp] theorem State.beginSession_srate (s : State) (r : Word) :
    (s.beginSession r).srate = r := rfl
@[simp] theorem State.beginSession_status (s : State) (r : Word) :
    (s.beginSession r).status = { s.status with running := true } := rfl
@[simp] theorem State.beginSession_lastErr (s : State) (r : Word) :
    (s.beginSession r).lastErr = s.lastErr := rfl
@[simp] theorem State.beginSession_snap (s : State) (r : Word) :
    (s.beginSession r).snap = s.param := rfl
@[simp] theorem State.beginSession_env (s : State) (r : Word) :
    (s.beginSession r).env = Envelope.reset := rfl
@[simp] theorem State.beginSession_n (s : State) (r : Word) : (s.beginSession r).n = 0#32 := rfl
@[simp] theorem State.beginSession_lastFreq (s : State) (r : Word) :
    (s.beginSession r).lastFreq = 0x00000000#32 := rfl
@[simp] theorem State.beginSession_evq (s : State) (r : Word) : (s.beginSession r).evq = [] := rfl
@[simp] theorem State.beginSession_fill (s : State) (r : Word) :
    (s.beginSession r).fill = { s.fill with stopPend := false } := rfl
@[simp] theorem State.beginSession_mem (s : State) (r : Word) :
    (s.beginSession r).mem = s.mem := rfl
@[simp] theorem State.beginSession_replies (s : State) (r : Word) :
    (s.beginSession r).replies = s.replies := rfl
@[simp] theorem State.beginSession_inputs (s : State) (r : Word) :
    (s.beginSession r).inputs = s.inputs := rfl
@[simp] theorem State.beginSession_draws (s : State) (r : Word) :
    (s.beginSession r).draws = s.draws := rfl

/-! ### frameNext -/

@[simp] theorem frameNext_param (s : State) (e : Envelope) (w : Word) :
    (frameNext s e w).param = s.param := rfl
@[simp] theorem frameNext_srate (s : State) (e : Envelope) (w : Word) :
    (frameNext s e w).srate = s.srate := rfl
@[simp] theorem frameNext_status (s : State) (e : Envelope) (w : Word) :
    (frameNext s e w).status = s.status := rfl
@[simp] theorem frameNext_lastErr (s : State) (e : Envelope) (w : Word) :
    (frameNext s e w).lastErr = s.lastErr := rfl
@[simp] theorem frameNext_snap (s : State) (e : Envelope) (w : Word) :
    (frameNext s e w).snap = s.snap := rfl
@[simp] theorem frameNext_env (s : State) (e : Envelope) (w : Word) :
    (frameNext s e w).env = e := rfl
@[simp] theorem frameNext_n (s : State) (e : Envelope) (w : Word) :
    (frameNext s e w).n = s.n + 1#32 := rfl
@[simp] theorem frameNext_lastFreq (s : State) (e : Envelope) (w : Word) :
    (frameNext s e w).lastFreq = s.lastFreq := rfl
@[simp] theorem frameNext_evq (s : State) (e : Envelope) (w : Word) :
    (frameNext s e w).evq = s.evq := rfl
@[simp] theorem frameNext_fill (s : State) (e : Envelope) (w : Word) :
    (frameNext s e w).fill = { s.fill with fj := s.fill.fj + 1#32, badBuf := s.fill.badBuf || !isFinite w } := rfl
@[simp] theorem frameNext_mem (s : State) (e : Envelope) (w : Word) :
    (frameNext s e w).mem = Memory.writeWord (frameAddress s.fill s.fill.fj) w s.mem := rfl
@[simp] theorem frameNext_replies (s : State) (e : Envelope) (w : Word) :
    (frameNext s e w).replies = s.replies := rfl
@[simp] theorem frameNext_inputs (s : State) (e : Envelope) (w : Word) :
    (frameNext s e w).inputs = s.inputs := rfl
@[simp] theorem frameNext_draws (s : State) (e : Envelope) (w : Word) :
    (frameNext s e w).draws = s.draws := rfl

/-! ### bufferStart -/

@[simp] theorem bufferStart_param (s : State) : (bufferStart s).param = s.param := rfl
@[simp] theorem bufferStart_srate (s : State) : (bufferStart s).srate = s.srate := rfl
@[simp] theorem bufferStart_status (s : State) : (bufferStart s).status = s.status := rfl
@[simp] theorem bufferStart_lastErr (s : State) : (bufferStart s).lastErr = s.lastErr := rfl
@[simp] theorem bufferStart_snap (s : State) :
    (bufferStart s).snap = snapshot s.nextDraw s.param s.snap := rfl
@[simp] theorem bufferStart_env (s : State) :
    (bufferStart s).env = s.evq.foldl (applyEvent (f32 (snapshot s.nextDraw s.param s.snap).envpGroup.sustain)) s.env := rfl
@[simp] theorem bufferStart_n (s : State) : (bufferStart s).n = s.n := rfl
@[simp] theorem bufferStart_lastFreq (s : State) :
    (bufferStart s).lastFreq = holdFreq s.lastFreq (snapshot s.nextDraw s.param s.snap).freqGroup.freq := rfl
@[simp] theorem bufferStart_evq (s : State) : (bufferStart s).evq = [] := rfl
@[simp] theorem bufferStart_fill (s : State) : (bufferStart s).fill = s.fill := rfl
@[simp] theorem bufferStart_mem (s : State) : (bufferStart s).mem = s.mem := rfl
@[simp] theorem bufferStart_replies (s : State) : (bufferStart s).replies = s.replies := rfl
@[simp] theorem bufferStart_inputs (s : State) : (bufferStart s).inputs = s.inputs := rfl
@[simp] theorem bufferStart_draws (s : State) : (bufferStart s).draws = s.draws.tail := rfl

/-! ### fillStopped -/

@[simp] theorem fillStopped_param (fn fbuf : Word) (s : State) :
    (fillStopped fn fbuf s).param = s.param := rfl
@[simp] theorem fillStopped_srate (fn fbuf : Word) (s : State) :
    (fillStopped fn fbuf s).srate = s.srate := rfl
@[simp] theorem fillStopped_status (fn fbuf : Word) (s : State) :
    (fillStopped fn fbuf s).status = s.status.record .fillStopped := rfl
@[simp] theorem fillStopped_lastErr (fn fbuf : Word) (s : State) :
    (fillStopped fn fbuf s).lastErr = Condition.fillStopped.code := rfl
@[simp] theorem fillStopped_snap (fn fbuf : Word) (s : State) :
    (fillStopped fn fbuf s).snap = s.snap := rfl
@[simp] theorem fillStopped_env (fn fbuf : Word) (s : State) :
    (fillStopped fn fbuf s).env = s.env := rfl
@[simp] theorem fillStopped_n (fn fbuf : Word) (s : State) :
    (fillStopped fn fbuf s).n = s.n := rfl
@[simp] theorem fillStopped_lastFreq (fn fbuf : Word) (s : State) :
    (fillStopped fn fbuf s).lastFreq = s.lastFreq := rfl
@[simp] theorem fillStopped_evq (fn fbuf : Word) (s : State) :
    (fillStopped fn fbuf s).evq = s.evq := rfl
@[simp] theorem fillStopped_fill (fn fbuf : Word) (s : State) :
    (fillStopped fn fbuf s).fill = s.fill := rfl
@[simp] theorem fillStopped_mem (fn fbuf : Word) (s : State) :
    (fillStopped fn fbuf s).mem = Memory.writeZeros fbuf.toNat fn.toNat s.mem := rfl
@[simp] theorem fillStopped_replies (fn fbuf : Word) (s : State) :
    (fillStopped fn fbuf s).replies = s.replies := rfl
@[simp] theorem fillStopped_inputs (fn fbuf : Word) (s : State) :
    (fillStopped fn fbuf s).inputs = s.inputs := rfl
@[simp] theorem fillStopped_draws (fn fbuf : Word) (s : State) :
    (fillStopped fn fbuf s).draws = s.draws := rfl

end Sys2Proof.Machine
end

