-- ==== Sys2Proof/Laws/Steps.lean ====
section
/-! SUPPORT. What each shared operation and one step can do, said once: proofs cite these in place of
unfolding. -/

namespace Sys2Proof.Machine

/-! ### The event queue -/

theorem State.enqueue_of_room {s : State} (h : s.evq.length ≠ Config.evqDepth) (e : NoteEvent) :
    s.enqueue e = { s with evq := s.evq ++ [e] } := if_neg h

theorem State.enqueue_of_full {s : State} (h : s.evq.length = Config.evqDepth) (e : NoteEvent) :
    s.enqueue e = s.raise .evqOverflow := if_pos h

/-- A note event is discarded, dropped with EVQ_OVERFLOW, or queued; nothing else can happen. -/
theorem State.noteEvent_cases (s : State) (e : NoteEvent) :
    (s.status.running = false ∧ s.noteEvent e = s)
      ∨ (s.status.running = true ∧ s.evq.length = Config.evqDepth
          ∧ s.noteEvent e = s.raise .evqOverflow)
      ∨ (s.status.running = true ∧ s.evq.length ≠ Config.evqDepth
          ∧ s.noteEvent e = { s with evq := s.evq ++ [e] }) := by
  unfold State.noteEvent
  cases hr : s.status.running with
  | false => exact .inl ⟨rfl, rfl⟩
  | true =>
    by_cases hl : s.evq.length = Config.evqDepth
    · exact .inr (.inl ⟨rfl, hl, s.enqueue_of_full hl e⟩)
    · exact .inr (.inr ⟨rfl, hl, s.enqueue_of_room hl e⟩)

/-! ### The engine -/

/-- One engine step: nothing without a FILL in progress; a frame, with an accepted rate; the fault of an
unaccepted rate; or the buffer end. -/
theorem engineStep_cases (R : Realization) (s : State) :
    (s.fill.fip = false ∧ engineStep R s = .next s)
      ∨ (s.fill.fip = true ∧ s.fill.fj.toNat < s.fill.fn.toNat ∧ rateAccepted s.srate = true
          ∧ engineStep R s
              = .next (frameNext s (frameEnvelope s) (frameWord R s (frameEnvelope s))))
      ∨ (s.fill.fip = true ∧ s.fill.fj.toNat < s.fill.fn.toNat ∧ rateAccepted s.srate = false
          ∧ engineStep R s = .fault .rateNotPositive)
      ∨ (s.fill.fip = true ∧ ¬ s.fill.fj.toNat < s.fill.fn.toNat
          ∧ engineStep R s = .next (bufferEnd s)) := by
  unfold engineStep frame
  cases hf : s.fill.fip with
  | false => simp
  | true =>
    by_cases hj : s.fill.fj.toNat < s.fill.fn.toNat
    · cases hr : rateAccepted s.srate <;> simp [hj]
    · simp [hj]

/-- FILL: its two refusals, its silence while stopped, and its first step while running. -/
theorem execFill_cases (fn fbuf : Word) (s : State) :
    (fbuf.toNat % 4 ≠ 0 ∧ execFill fn fbuf s = .refused .fillMisaligned)
      ∨ (fbuf.toNat % 4 = 0 ∧ s.fill.fip = true ∧ execFill fn fbuf s = .refused .fillOutstanding)
      ∨ (fbuf.toNat % 4 = 0 ∧ s.fill.fip = false ∧ s.status.running = false
          ∧ execFill fn fbuf s = .next (fillStopped fn fbuf s))
      ∨ (fbuf.toNat % 4 = 0 ∧ s.fill.fip = false ∧ s.status.running = true
          ∧ execFill fn fbuf s = .next (bufferStart { s with fill := s.fill.begin fn fbuf })) := by
  unfold execFill
  by_cases ha : fbuf.toNat % 4 = 0
  · cases hf : s.fill.fip <;> cases hr : s.status.running <;> simp [ha]
  · simp [ha]

/-! ### One step -/

theorem step_of_no_input {s : State} (h : s.inputs = []) : step s = engineStep .reference s := by
  simp [step, stepOf, State.nextInput, h]

theorem step_of_engineTurn {s : State} {rest : List Input} (h : s.inputs = .engineTurn :: rest) :
    step s = engineStep .reference { s with inputs := rest } := by
  simp [step, stepOf, State.nextInput, h]

theorem step_of_decoded {s : State} {t : Transaction} {rest : List Input} {i : Instr}
    (h : s.inputs = .port t :: rest) (hd : decode t = .ok i) :
    step s = exec i { s with inputs := rest } := by
  simp [step, stepOf, State.nextInput, h, hd]

theorem step_of_malformed {s : State} {t : Transaction} {rest : List Input} {c : BadCommand}
    (h : s.inputs = .port t :: rest) (hd : decode t = .error c) :
    step s = .next ({ s with inputs := rest }.raise (conditionOf c)) := by
  simp [step, stepOf, State.nextInput, h, hd, execMalformed]

/-- A transaction that arrives is the next to be decoded. -/
theorem step_arrive (s : State) (t : Transaction) :
    step (s.arrive t)
      = match decode t with
        | .ok i => exec i s
        | .error c => execMalformed c s := rfl

end Sys2Proof.Machine
end

