-- ==== Sys2Proof/Tests/Slice0.lean ====
section
/-! SUPPORT. The model's own tests: the ill-formed instructions WellFormed refuses, words written out from
the spec's encodings, single steps with results from 95_test_vectors.md (or from the rule named), and for
each statement with hypotheses a witness that meets them all. -/

namespace Sys2Proof.Tests

open Sys2Proof.Machine

/-! ### WellFormed refuses (30_encoding.md R83, R88) -/

theorem test_note_on_refuses_note_128 : (Instr.noteOn 128#8 0#8).wf = false := by decide
theorem test_note_on_refuses_velocity_128 : (Instr.noteOn 60#8 128#8).wf = false := by decide
theorem test_note_off_refuses_note_128 : (Instr.noteOff 128#8).wf = false := by decide
theorem test_set_wave_refuses_code_4 : (Instr.setWave 4#8).wf = false := by decide
theorem test_limits_are_well_formed :
    (Instr.noteOn 127#8 127#8).wf && (Instr.noteOff 127#8).wf && (Instr.setWave 3#8).wf = true := by
  decide

/-! ### Decoding: the words of 95_test_vectors.md 2.5, and the refusals of 2.6 -/

/-- What a control transaction decodes to. -/
def dec (cw ow : Word) : Option Instr :=
  match decode (.control cw ow) with
  | .ok i => some i
  | .error _ => none

/-- Why a control transaction is ignored. -/
def bad (cw : Word) : Option BadCommand :=
  match decode (.control cw 0#32) with
  | .ok _ => none
  | .error c => some c

theorem test_decode_note_on : dec 0x01456400#32 0#32 = some (.noteOn 69#8 100#8) := by decide
theorem test_decode_note_off : dec 0x02480000#32 0#32 = some (.noteOff 72#8) := by decide
theorem test_decode_gate_on : dec 0x03800000#32 0#32 = some (.gateOn 0x80#8) := by decide
theorem test_decode_gate_off : dec 0x04000000#32 0#32 = some .gateOff := by decide
theorem test_decode_set_freq : dec 0x10000000#32 0x43DC0000#32 = some (.setFreq 0x43DC0000#32) := by decide
theorem test_decode_set_wave : dec 0x11030000#32 0#32 = some (.setWave 3#8) := by decide
theorem test_decode_set_voices : dec 0x12040000#32 0#32 = some (.setVoices 4#8) := by decide
theorem test_decode_set_detune : dec 0x13000000#32 0x41A00000#32 = some (.setDetune 0x41A00000#32) := by decide
theorem test_decode_set_attack : dec 0x14000000#32 0x3C23D70A#32 = some (.setAttack 0x3C23D70A#32) := by decide
theorem test_decode_set_decay : dec 0x15000000#32 0x3DCCCCCD#32 = some (.setDecay 0x3DCCCCCD#32) := by decide
theorem test_decode_set_sustain : dec 0x16000000#32 0x3F333333#32 = some (.setSustain 0x3F333333#32) := by decide
theorem test_decode_set_release : dec 0x17000000#32 0x3E4CCCCD#32 = some (.setRelease 0x3E4CCCCD#32) := by decide
theorem test_decode_set_osr : dec 0x18040000#32 0#32 = some (.setOsr 4#8) := by decide
theorem test_decode_set_alpha : dec 0x19000000#32 0x3F000000#32 = some (.setAlpha 0x3F000000#32) := by decide
theorem test_decode_set_strength :
    dec 0x1A000000#32 0x3E800000#32 = some (.setStrength 0x3E800000#32) := by decide
theorem test_decode_stream_start :
    dec 0x20000000#32 0x472C4400#32 = some (.streamStart 0x472C4400#32) := by decide
theorem test_decode_stream_stop : dec 0x21000000#32 0#32 = some .streamStop := by decide
theorem test_decode_get_reg : dec 0x300C0000#32 0#32 = some (.getReg 0x0C#8) := by decide
theorem test_decode_clr_status : dec 0x31000000#32 0#32 = some .clrStatus := by decide

/-- `FILL 256` (95_test_vectors.md 2.5). -/
theorem test_decode_fill : decodeTableWord 32 0x00000100 = some (.fill 256#32 0#32) := by decide

/-- R63: the bytes of `FILL 256` with its buffer at 0x12345678. -/
theorem test_audio_bytes :
    streamBytes (encode (.fill 256#32 0x12345678#32))
      = [0x00#8, 0x01#8, 0x00#8, 0x00#8, 0x78#8, 0x56#8, 0x34#8, 0x12#8] := by decide

/-- ERR-1, ERR-2 and ERR-3: the opcode is checked first. -/
theorem test_bad_opcode :
    (bad 0x00000000#32, bad 0x7F000000#32, bad 0x05010001#32)
      = (some .badOpcode, some .badOpcode, some .badOpcode) := by decide

/-- ERR-4 to ERR-7, ERR-18 and ERR-19: reserved bits before field ranges. -/
theorem test_rsv_nonzero :
    [0x01456401#32, 0x04010000#32, 0x10010000#32, 0x11050001#32, 0x31000100#32, 0x300C0100#32].map bad
      = List.replicate 6 (some BadCommand.rsvNonzero) := by decide

/-- ERR-8 to ERR-11. -/
theorem test_bad_field :
    [0x01806400#32, 0x013C8000#32, 0x02800000#32, 0x11040000#32].map bad
      = List.replicate 4 (some BadCommand.badField) := by decide

/-- R86: 237 of the 256 opcodes are illegal. -/
theorem test_illegal_opcode_count :
    ((List.range 256).filter fun n => bad (BitVec.ofNat 32 (n * 2 ^ 24)) == some .badOpcode).length
      = 237 := by decide +kernel

/-! ### Single steps -/

/-- The next state of an outcome. -/
def after : Host.Outcome State Fault Refusal → Option State
  | .next s => some s
  | .fault _ | .refused _ => none

/-- The refusal of an outcome. -/
def refusal : Host.Outcome State Fault Refusal → Option Refusal
  | .refused x => some x
  | .next _ | .fault _ => none

/-- A session at 8 Hz, as after STREAM_START 8 from reset. -/
def playing : State :=
  { State.reset with
    srate := 0x41000000#32, status := { State.reset.status with running := true } }

/-- Program P1's parameters: a sawtooth at 1 Hz with A = D = R = 1/4 s and S = 1/2. -/
def sawParams : Params :=
  { Params.reset with
    freqGroup := { freq := 0x3F800000#32 }
    voiceGroup := { Params.reset.voiceGroup with wave := .sawtooth }
    envpGroup :=
      { attack := 0x3E800000#32, decay := 0x3E800000#32, sustain := 0x3F000000#32,
        release := 0x3E800000#32 } }

/-- Program P1 before its first FILL: GATE_ON 0x80 is queued. -/
def gated : State := { playing with param := sawParams, evq := [.start 0x80#8] }

/-- Program P1 right after the BUFFER_START of a FILL of one frame at address 8. -/
def filling : State :=
  { playing with
    param := sawParams, snap := sawParams, lastFreq := 0x3F800000#32
    env :=
      { stage := .attack, value := 0, elapsed := 0, origin := 0, susSnap := mkRat 1 2, note := 0x80#8,
        noteValid := true }
    fill :=
      { fip := true, fn := 1#32, fj := 0#32, fbuf := 8#32, badBuf := false, stopPend := false } }

/-- The same FILL after its one frame. -/
def filled : State := { filling with fill := { filling.fill with fj := 1#32 } }

/-- The same FILL with E Idle and no held frequency. -/
def silent : State := { filling with env := Envelope.reset, lastFreq := 0x00000000#32 }

/-- A state with one transaction to come. -/
def incoming (cw ow : Word) (s : State) : State := { s with inputs := [.port (.control cw ow)] }

/-- What GET_REG reads of a register after an outcome. -/
def regAfter (o : Host.Outcome State Fault Refusal) (idx : Byte) : Option Word :=
  (after o).map (readReg idx)

/-- NOTE_ON 69 writes FREQ = 440 and queues START(69) (R221). -/
theorem test_note_on :
    (after (exec (.noteOn 69#8 100#8) playing)).map (fun s => (s.param.freqGroup.freq, s.evq))
      = some (0x43DC0000#32, [.start 69#8]) := by decide +kernel

/-- NOTE_ON 60 while stopped: FREQ is written, the event is discarded (R221, R241). -/
theorem test_note_on_stopped :
    (after (exec (.noteOn 60#8 1#8) State.reset)).map (fun s => (s.param.freqGroup.freq, s.evq))
      = some (0x4382D013#32, []) := by decide +kernel

theorem test_note_off :
    (after (exec (.noteOff 72#8) playing)).map (·.evq) = some [.stop 72#8] := by decide

/-- ERR-14: the 17th event is dropped. -/
theorem test_gate_on_overflow :
    (after (exec (.gateOn 17#8) { playing with evq := List.replicate 16 .stopAny })).map
        (fun s => (s.evq.length, s.status.evqOvf, s.lastErr))
      = some (16, true, 0x04#8) := by decide

theorem test_gate_off : (after (exec .gateOff playing)).map (·.evq) = some [.stopAny] := by decide

/-- The setter clamps of 95_test_vectors.md 2.5. -/
theorem test_set_freq_above : regAfter (exec (.setFreq 0x46C35000#32) State.reset) 0x00#8
    = some 0x469C4000#32 := by decide
theorem test_set_freq_subnormal : regAfter (exec (.setFreq 0x00000001#32) State.reset) 0x00#8
    = some 0x00000001#32 := by decide +kernel
theorem test_set_wave : regAfter (exec (.setWave 3#8) State.reset) 0x01#8 = some 3#32 := by decide
theorem test_set_voices_above : regAfter (exec (.setVoices 200#8) State.reset) 0x02#8 = some 8#32 := by
  decide
theorem test_set_voices_zero : regAfter (exec (.setVoices 0#8) State.reset) 0x02#8 = some 1#32 := by
  decide
theorem test_set_detune_above : regAfter (exec (.setDetune 0x43160000#32) State.reset) 0x03#8
    = some 0x42C80000#32 := by decide
theorem test_set_detune_nan :
    (after (exec (.setDetune 0x7FC00000#32) { State.reset with param := sawParams })).map
        (fun s => (s.param.voiceGroup.voices, s.param.voiceGroup.detune, s.param.voiceGroup.wave))
      = some (1#4, 0x00000000#32, .sawtooth) := by decide
theorem test_set_attack_zero : regAfter (exec (.setAttack 0x00000000#32) State.reset) 0x04#8
    = some 0x3A83126F#32 := by decide
theorem test_set_attack_above : regAfter (exec (.setAttack 0x41A00000#32) State.reset) 0x04#8
    = some 0x41200000#32 := by decide
theorem test_set_decay_nan :
    regAfter (exec (.setDecay 0x7FC00000#32) { State.reset with param := sawParams }) 0x05#8
      = some 0x3DCCCCCD#32 := by decide
theorem test_set_release_inf : regAfter (exec (.setRelease 0x7F800000#32) State.reset) 0x07#8
    = some 0x41200000#32 := by decide
theorem test_set_sustain_above : regAfter (exec (.setSustain 0x3FC00000#32) State.reset) 0x06#8
    = some 0x3F800000#32 := by decide
theorem test_set_sustain_below : regAfter (exec (.setSustain 0xBF000000#32) State.reset) 0x06#8
    = some 0x00000000#32 := by decide
theorem test_set_osr_above : regAfter (exec (.setOsr 17#8) State.reset) 0x08#8 = some 16#32 := by decide
theorem test_set_alpha_above : regAfter (exec (.setAlpha 0x40000000#32) State.reset) 0x09#8
    = some 0x3F800000#32 := by decide
theorem test_set_strength_above : regAfter (exec (.setStrength 0x3F400000#32) State.reset) 0x0A#8
    = some 0x3F000000#32 := by decide

/-- ERR-12: the start is refused. -/
theorem test_stream_start_zero :
    (after (exec (.streamStart 0x00000000#32) State.reset)).map
        (fun s => (s.status.running, s.status.setupErr, s.lastErr)) = some (false, true, 0x05#8) := by
  decide

/-- A restart during a FILL cuts the note and keeps the FILL (R296). -/
theorem test_stream_start_restart :
    (after (exec (.streamStart 0x41000000#32) filling)).map
        (fun s => (s.env.stage, s.fill.fip, s.lastFreq)) = some (.idle, true, 0x00000000#32) := by
  decide

/-- ENG-5: STATUS reads RUNNING and STOP_PEND. -/
theorem test_stream_stop_deferred : regAfter (exec .streamStop filling) 0x0C#8 = some 0x41#32 := by
  decide
theorem test_stream_stop_at_once : regAfter (exec .streamStop playing) 0x0C#8 = some 0x00#32 := by
  decide

theorem test_get_reg_id :
    (after (exec (.getReg 0x13#8) State.reset)).map (·.replies) = some [0x53594E07#32] := by decide

/-- Program P1's ENVSTAT in Sustain with note 0x80 (R47). -/
theorem test_get_reg_envstat :
    (after (exec (.getReg 0x0E#8)
        { filling with env := { filling.env with stage := .sustain, value := mkRat 1 2 } })).map
        (·.replies) = some [0x0000803B#32] := by decide

theorem test_clr_status :
    (after (exec .clrStatus (playing.raise .evqOverflow))).map
        (fun s => (readReg 0x0C#8 s, s.lastErr)) = some (0x01#32, 0x00#8) := by decide

/-- ENG-4: a FILL while stopped. -/
theorem test_fill_stopped :
    (after (exec (.fill 2#32 8#32) State.reset)).map
        (fun s => (Memory.readWord 8 s.mem, Memory.readWord 12 s.mem, Memory.read 16 s.mem, s.lastErr))
      = some (some 0#32, some 0#32, none, 0x07#8) := by decide

/-- Program P1's first BUFFER_START: START(0x80) with the sustain level 1/2. -/
theorem test_fill_buffer_start :
    (after (exec (.fill 1#32 8#32) gated)) = some { filling with inputs := [] } := by decide +kernel

/-- Program P1's frame 0: E.value = S(1/2) = 1/2 and the word is -0.5. -/
theorem test_frame_saw :
    (after (engineStep .reference filling)).map
        (fun s => (Memory.readWord 8 s.mem, s.env.value, s.n)) = some (some 0xBF000000#32, mkRat 1 2, 1#32) := by
  decide +kernel

/-- R199: a bad buffer is rewritten as silence, and a deferred stop ends the session. -/
theorem test_buffer_end_silences :
    (after (engineStep .reference
        { filled with fill := { filled.fill with badBuf := true, stopPend := true } })).map
        (fun s => (Memory.readWord 8 s.mem, s.lastErr, s.status.silenced, s.status.running, s.fill.fip))
      = some (some 0#32, 0x06#8, true, false, false) := by decide

/-- ERR-1: a malformed transaction records its condition. -/
theorem test_malformed_step :
    (after (step (incoming 0x7F000000#32 0#32 State.reset))).map (fun s => (s.status.badCmd, s.lastErr))
      = some (true, 0x01#8) := by decide

/-- A word of the opcode table runs as the first instruction after reset (STREAM_START 8). -/
theorem test_with_fetch_word :
    (after (step (State.reset.withFetchWord 64 0x4100000020000000))).map (·.srate)
      = some 0x41000000#32 := by decide

/-! ### The oscillator, the mixer and the envelope -/

/-- The operands of a frame with gain 1 and one undetuned voice. -/
def tone (kind : WaveKind) (freq time rate : Rat) : FrameOperands :=
  { gain := 1, freq := freq, kind := kind, voices := 1, detune := 0x00000000#32, time := time,
    rate := rate, osr := 1, alpha := 1, strength := 0 }

/-- OSC-D-1: sin(2π · 440/44100). -/
theorem test_sine_word : referenceWord (tone .sine 440 (mkRat 1 44100) 44100) = 0x3D804DC4#32 := by
  decide +kernel

/-- OSC-D-5: above half the sample rate. -/
theorem test_sawtooth_word :
    referenceWord (tone .sawtooth 20000 (mkRat 1 44100) 44100) = 0xBDBE6754#32 := by decide +kernel

/-- OSC-D-2: φ = 1/2 belongs to the negative half. -/
theorem test_square_word : referenceWord (tone .square 1 (mkRat 1 2) 8) = 0xBF800000#32 := by
  decide +kernel

/-- OSC-D-4: the triangle's peak. -/
theorem test_triangle_word : referenceWord (tone .triangle 1 (mkRat 1 2) 8) = 0x3F800000#32 := by
  decide +kernel

/-- OSC-AA-1: four sub-samples, filtered and smoothed. -/
theorem test_antialiased_word :
    referenceWord
        { tone .sawtooth 1 (mkRat 7 8) 8 with osr := 4, alpha := mkRat 1 2, strength := mkRat 1 4 }
      = 0x3F254AC0#32 := by decide +kernel

/-- OSC-AA-7: √2/4. -/
theorem test_antialiased_sine_word :
    referenceWord { tone .sine 1 0 4 with osr := 2 } = 0x3EB504F3#32 := by decide +kernel

/-- UNI-1: four voices over 20 cents. -/
theorem test_unison_word :
    referenceWord
        { tone .sine 220 (mkRat 100 44100) 44100 with voices := 4, detune := 0x41A00000#32 }
      = 0x3BE8751C#32 := by decide +kernel

/-- R110: 1 Hz, an eighth of a period before and after a zero crossing: the two sub-samples cancel. -/
theorem test_cancelling_sine_word :
    referenceWord { tone .sine 1 (mkRat 7 8) 2 with osr := 2 } = 0x00000000#32 := by decide +kernel

/-- R110, R8: seven smoothed sub-samples average 3/32, and 3/32 times the float after 1/2 is a tie, which
goes to the even word. -/
theorem test_tied_sine_word :
    referenceWord
        { tone .sine 56 (mkRat 1 64) 64 with
          gain := f32 0x3F000001#32, osr := 7, strength := mkRat 11 32 }
      = 0x3D400002#32 := by decide +kernel

/-- R110, R8: ten sub-samples average 1/20, and 1/20 · S(25/64) = 32359375/2^31 lies halfway between
0x3C76E1E7 and 0x3C76E1E8. -/
theorem test_tied_attack_word :
    referenceWord
        { tone .sine 80 (mkRat 74 96) 96 with gain := smootherstep (mkRat 25 64), osr := 10 }
      = 0x3C76E1E8#32 := by decide +kernel

/-- ENV-13, update 2: the excess of the Attack is carried into the Decay. -/
theorem test_envelope_carry :
    (let e := envStart 1#8 (mkRat 1 2) Envelope.reset
     let up := envUpdate (mkRat 1 8) (f32 0x3E4CCCCD#32) (mkRat 1 4) (mkRat 1 4)
     ((up (up e)).stage, toF32 (up (up e)).value)) = (.decay, 0x3F789614#32) := by decide +kernel

/-- ENV-11: a retrigger starts from 3/4. -/
theorem test_envelope_retrigger :
    (envUpdate (mkRat 1 2048) (mkRat 1 512) (mkRat 1 512) (mkRat 1 512)
        (envStart 72#8 (mkRat 1 2)
          { filling.env with stage := .decay, value := mkRat 3 4, note := 69#8 })).value
      = mkRat 77587890625 100000000000 := by decide +kernel

/-- The validation vectors of 95_test_vectors.md 2.2. -/
theorem test_validate_unison :
    [validateUnison 0 0x40A00000#32, validateUnison 9 0x40A00000#32, validateUnison 4 0xC0400000#32,
        validateUnison 4 0x43160000#32, validateUnison 4 0x7FC00000#32, validateUnison 4 0x7F800000#32]
      = [(1, 5), (8, 5), (4, 0), (4, 100), (1, 0), (1, 0)] := by decide +kernel

/-! ### Witnesses: states and operands that meet the hypotheses of each statement -/

theorem witness_StepRunsTheDecodedInstruction :
    (incoming 0x01456400#32 0#32 State.reset).inputs
        = .port (.control 0x01456400#32 0#32) :: []
      ∧ decode (.control 0x01456400#32 0#32) = .ok (.noteOn 69#8 100#8) := ⟨rfl, rfl⟩

/-- One word for each of the four branches: a bad opcode, a reserved bit, a note of 128, and GATE_OFF. -/
theorem witness_ControlTransactionIsCheckedInOrder :
    (bad 0x05000000#32, bad 0x04000001#32, bad 0x02800000#32, dec 0x04000000#32 0#32)
        = (some .badOpcode, some .rsvNonzero, some .badField, some .gateOff)
      ∧ (incoming 0x04000001#32 0#32 State.reset).inputs = .port (.control 0x04000001#32 0#32) :: [] := by
  decide

theorem witness_EngineTurnIsOneEngineStep :
    ({ filling with inputs := [.engineTurn] } : State).inputs = .engineTurn :: []
      ∧ filling.inputs = [] := ⟨rfl, rfl⟩

theorem witness_DecodeOfEncodeIsTheInstruction :
    (Instr.noteOn 127#8 127#8).wf = true ∧ (Instr.setWave 3#8).wf = true := by decide

theorem witness_DecodedCommandEncodesToItsWords :
    decodeControl 0x017F7F00#32 1#32 = .ok (.noteOn 127#8 127#8)
      ∧ decodeControl 0x10000000#32 1#32 = .ok (.setFreq 1#32) := ⟨rfl, rfl⟩

theorem witness_CommandBytesDecodeLittleEndian :
    (Instr.setFreq 0x43DC0000#32).wf = true
      ∧ encode (.setFreq 0x43DC0000#32) = .control 0x10000000#32 0x43DC0000#32
      ∧ (Instr.fill 256#32 64#32).wf = true
      ∧ encode (.fill 256#32 64#32) = .audio 0x00000100#32 64#32 := by decide

theorem witness_NoteEventsAreQueuedDroppedOrDiscarded :
    ((Instr.noteOff 5#8, NoteEvent.stop 5#8) = (Instr.gateOff, NoteEvent.stopAny)
      ∨ (∃ n : Byte, (Instr.noteOff 5#8, NoteEvent.stop 5#8) = (Instr.noteOff n, NoteEvent.stop n))
      ∨ ∃ t : Byte, (Instr.noteOff 5#8, NoteEvent.stop 5#8) = (Instr.gateOn t, NoteEvent.start t)) :=
  .inr (.inl ⟨5#8, rfl⟩)

theorem witness_NoteOnTunesAndStartsTheNote : (127#8 : Byte).toNat ≤ 127 ∧ (1#8 : Byte) ≠ 0#8 := by
  decide

/-- The last register, the first and the last reserved index. -/
theorem witness_GetRegRepliesTheRegister :
    (0x13#8 : Byte) = 0x13#8 ∧ 0x14 ≤ (0x14#8 : Byte).toNat ∧ 0x14 ≤ (0xFF#8 : Byte).toNat := by decide

theorem witness_EveryControlCommandCompletes :
    ∀ (fn fbuf : Word), Instr.clrStatus ≠ .fill fn fbuf := fun _ _ h => nomatch h

theorem witness_CommandsLeaveTheEngineStateAlone :
    (∀ w : Word, Instr.streamStop ≠ .streamStart w)
      ∧ (∀ (fn fbuf : Word), Instr.streamStop ≠ .fill fn fbuf)
      ∧ ∃ t : State, exec .streamStop filling = .next t :=
  ⟨fun _ h => (nomatch h), fun _ _ h => (nomatch h), _, rfl⟩

theorem witness_FillWhileStoppedWritesSilence :
    (8#32 : Word).toNat % 4 = 0 ∧ State.reset.fill.fip = false ∧ State.reset.status.running = false := by decide

theorem witness_FillInBreachOfAHostDutyIsRefused :
    (1#32 : Word).toNat % 4 ≠ 0 ∧ (8#32 : Word).toNat % 4 = 0 ∧ filling.fill.fip = true := by decide

theorem witness_FillInASessionStartsTheBuffer :
    (8#32 : Word).toNat % 4 = 0 ∧ gated.fill.fip = false ∧ gated.status.running = true := by decide

theorem witness_FrameWritesOneWordAndAdvances :
    filling.fill.fip = true ∧ filling.fill.fj.toNat < filling.fill.fn.toNat
      ∧ isFinite filling.srate = true ∧ 0 < f32 filling.srate := by decide

theorem witness_BufferEndCompletesTheFill :
    filled.fill.fip = true ∧ filled.fill.fn.toNat ≤ filled.fill.fj.toNat := by decide

/-- A FILL of one frame and one of none. -/
theorem witness_FillCompletesAfterItsFramesAndTwoSteps (fn : Word) (_ : fn = 0#32 ∨ fn = 1#32) :
    (8#32 : Word).toNat % 4 = 0 ∧ gated.fill.fip = false ∧ gated.fill.stopPend = false ∧ gated.status.running = true
      ∧ isFinite gated.srate = true ∧ 0 < f32 gated.srate
      ∧ ({ gated with inputs := uninterruptedFill fn 8#32 } : State).inputs = uninterruptedFill fn 8#32 :=
  ⟨rfl, rfl, rfl, rfl, rfl, by decide, rfl⟩

theorem witness_SettersDoNotReachTheFillInProgress :
    (∃ a : Byte, Instr.setOsr 4#8 = .setWave a ∨ Instr.setOsr 4#8 = .setVoices a
        ∨ Instr.setOsr 4#8 = .setOsr a)
      ∧ ∃ u : State, engineStep .reference filling = .next u :=
  ⟨⟨4#8, .inr (.inr rfl)⟩, _, rfl⟩

theorem witness_RestartDuringAFillIsSilent :
    filling.fill.fip = true ∧ filling.fill.fj.toNat < filling.fill.fn.toNat
      ∧ isFinite 0x472C4400#32 = true ∧ 0 < f32 0x472C4400#32
      ∧ silent.fill.fip = true ∧ silent.fill.fj.toNat < silent.fill.fn.toNat
      ∧ isFinite silent.srate = true ∧ 0 < f32 silent.srate
      ∧ silent.env.stage = .idle ∧ silent.lastFreq = 0x00000000#32 := by decide

theorem witness_AfterCompletionTheHostReadsTheBuffer : State.reset.fill.fip = false := rfl

theorem witness_SmootherstepIsTheQuinticEase :
    (0 : Rat) ≤ 0 ∧ (0 : Rat) ≤ mkRat 1 2 ∧ (mkRat 1 2 : Rat) < 1 ∧ (1 : Rat) ≤ 1 := by decide

/-- Each stage, and in Attack an elapsed time on either side of the boundary. -/
theorem witness_UpdateAdvancesTheStageByDt :
    Envelope.reset.stage = .idle ∧ filling.env.stage = .attack
      ∧ filling.env.elapsed + mkRat 1 8 < max (mkRat 1 4) (f32 0x3A83126F#32)
      ∧ ¬ filling.env.elapsed + mkRat 1 4 < max (mkRat 1 4) (f32 0x3A83126F#32) := by decide +kernel

theorem witness_UpdateKeepsTheValueInItsRange :
    (0 : Rat) < mkRat 1 8 ∧ filling.env.legal ∧ Envelope.reset.legal := by decide +kernel

/-- The boundary case k · dt = a + d (program P1), and one where dt exceeds a + d. -/
theorem witness_SustainIsReachedAfterAttackPlusDecay :
    Envelope.reset.stage = .idle ∧ (0 : Rat) < mkRat 1 8
      ∧ max (mkRat 1 4) (f32 0x3A83126F#32) + max (mkRat 1 4) (f32 0x3A83126F#32) ≤ (4 : Nat) * mkRat 1 8
      ∧ (∀ j : Nat, j < 4 →
          j * mkRat 1 8 < max (mkRat 1 4) (f32 0x3A83126F#32) + max (mkRat 1 4) (f32 0x3A83126F#32))
      ∧ max 0 (f32 0x3A83126F#32) + max 0 (f32 0x3A83126F#32) ≤ (1 : Nat) * mkRat 1 8
      ∧ (∀ j : Nat, j < 1 →
          j * mkRat 1 8 < max 0 (f32 0x3A83126F#32) + max 0 (f32 0x3A83126F#32)) := by
  decide +kernel

/-- Program P1's Sustain at 1/2: k = 2, and half of r has elapsed at j = 1. -/
theorem witness_ReleaseFallsStrictlyToZero :
    (let e : Envelope := { filling.env with stage := .sustain, value := mkRat 1 2 }
     e.stage = .sustain ∧ 0 < e.value) ∧ (0 : Rat) < mkRat 1 8
      ∧ max (mkRat 1 4) (f32 0x3A83126F#32) ≤ (2 : Nat) * mkRat 1 8
      ∧ (∀ j : Nat, j < 2 → j * mkRat 1 8 < max (mkRat 1 4) (f32 0x3A83126F#32))
      ∧ (1 : Nat) * mkRat 1 8 = max (mkRat 1 4) (f32 0x3A83126F#32) / 2 := by decide +kernel

theorem witness_RetriggerStepIsBoundedByTheSlope :
    (let e : Envelope := { filling.env with stage := .decay, value := mkRat 3 4, note := 69#8 }
     0 ≤ e.value ∧ e.value ≤ 1
      ∧ ¬ ((e.stage = .attack ∨ e.stage = .decay ∨ e.stage = .sustain) ∧ e.note = 72#8))
      ∧ (0 : Rat) < mkRat 1 2048 := by decide +kernel

theorem witness_NoteWithinOneBufferIsLost : Envelope.reset.stage = .idle ∧ Envelope.reset.value = 0 :=
  ⟨rfl, rfl⟩

/-- 0, and both ends of the finite range. -/
theorem witness_ToF32RoundsToNearestEven :
    |(0 : Rat)| ≤ f32 0x7F7FFFFF#32 ∧ |f32 0x7F7FFFFF#32| ≤ f32 0x7F7FFFFF#32
      ∧ |f32 0xFF7FFFFF#32| ≤ f32 0x7F7FFFFF#32 := by decide +kernel

theorem witness_ToF32OfF32IsTheWord :
    isFinite 0x00000001#32 = true ∧ (0x00000001#32 : Word) ≠ 0x80000000#32
      ∧ isFinite 0xFF7FFFFF#32 = true := by decide

theorem tone_legal : (tone .sine 440 (mkRat 1 44100) 44100).legal := by
  unfold FrameOperands.legal
  decide +kernel

theorem witness_ReferenceWordIsTheRoundedExactSample :
    (tone .sine 440 (mkRat 1 44100) 44100).legal ∧ (tone .sine 440 (mkRat 1 44100) 44100).settles :=
  ⟨tone_legal, 0, by decide, by decide +kernel⟩

theorem witness_ReferenceWordIsFinite : (tone .sine 440 (mkRat 1 44100) 44100).legal := tone_legal

/-- Both ends of each range; a filter state that follows the rule exists for any sub-samples. -/
theorem witness_OscillatorStaysInRange :
    1 ≤ 16 ∧ 16 ≤ 16 ∧ 16 ≠ 1 ∧ (0 : Rat) ≤ 1 ∧ (1 : Rat) ≤ 1 ∧ (0 : Rat) ≤ 1 / 2
      ∧ (1 / 2 : Rat) ≤ 1 / 2
      ∧ ∀ (al : ℝ) (x : Nat → ℝ), ∃ p : Nat → ℝ,
          p 0 = x 0 ∧ ∀ k : Nat, p (k + 1) = p k + al * (x (k + 1) - p k) :=
  ⟨by decide, by decide, by decide, by decide +kernel, by decide +kernel, by decide +kernel,
    by decide +kernel, fun al x =>
      ⟨fun k => Nat.rec (x 0) (fun k p => p + al * (x (k + 1) - p)) k, rfl, fun _ => rfl⟩⟩

theorem witness_ValidateUnisonClampsOrFallsBack :
    isFinite 0x7F800000#32 = false ∧ isFinite 0x42C80000#32 = true ∧ 0 ≤ f32 0x42C80000#32
      ∧ f32 0x42C80000#32 ≤ 100 := by decide

theorem witness_VoiceOffsetsSpreadSymmetrically : 2 ≤ 2 ∧ 1 < 2 := by decide

/-- Two voices with no detune, where every clause applies, and the nine voices that are clamped to 8. -/
theorem witness_UnisonMixStaysInRangeAndReducesToOneVoice :
    (0 : ℝ) < 440 ∧ isFinite 0x00000000#32 = true ∧ f32 0x00000000#32 = 0 ∧ 2 ≤ 2
      ∧ min (max 2 1) 8 ≠ 1 ∧ isFinite 0x42C80000#32 = true ∧ min (max 9 1) 8 ≠ 1 :=
  ⟨by norm_num, rfl, by decide, le_refl 2, by decide, rfl, by decide⟩

/-- The exact functions have the named properties, with TOL = 0. -/
theorem witness_RealizedMixStaysInRange :
    NamedProperties (fun φ => Real.sin (2 * Real.pi * φ)) (fun x => (2 : ℝ) ^ x) 0 where
  sinRange φ _ _ := ⟨Real.neg_one_le_sin _, Real.sin_le_one _⟩
  sinZero := by simp
  sinTol φ _ _ := by simp
  exp2Pos x _ := Real.rpow_pos_of_pos two_pos x
  exp2Tol x _ := by simp

/-- A realization that plays 0 throughout, with a TOL above every finite value. -/
def muted : Realization where
  word _ := 0x00000000#32
  tol := 2 ^ 128

theorem finite_value_bound (w : Word) (h : isFinite w = true) : |f32 w| ≤ 2 ^ 128 := by
  have hs : |(if signBit w then -(significand w : Int) else significand w)| ≤ 2 ^ 24 := by
    have := (w.extractLsb' 0 23).isLt
    have hs : significand w ≤ 2 ^ 24 := by
      unfold significand fracField
      by_cases he : expField w = 0 <;> simp only [he, if_true, if_false] <;> omega
    cases signBit w <;> simpa using (by exact_mod_cast hs : (significand w : Int) ≤ 2 ^ 24)
  have hu : unitScale w - 150 ≤ 104 := by
    have := (w.extractLsb' 23 8).isLt
    simp only [isFinite, bne_iff_ne] at h
    unfold unitScale
    by_cases he : expField w = 0 <;> simp only [he, if_true, if_false] <;> unfold expField at * <;> omega
  simp only [f32, h, if_true, finiteValue]
  generalize (if signBit w then -(significand w : Int) else significand w) = m at hs
  have hm : |(m : Rat)| ≤ 2 ^ 24 := by exact_mod_cast hs
  by_cases hk : 150 ≤ unitScale w <;> simp only [hk, if_true, if_false, Rat.mkRat_eq_div]
  · push_cast
    rw [div_one, abs_mul, abs_pow, abs_two]
    calc |(m : Rat)| * 2 ^ (unitScale w - 150) ≤ 2 ^ 24 * 2 ^ 104 := by gcongr; norm_num
      _ = 2 ^ 128 := by norm_num
  · push_cast
    rw [abs_div, abs_pow, abs_two]
    exact (div_le_self (abs_nonneg _) (one_le_pow₀ one_le_two)).trans (hm.trans (by norm_num))

theorem muted_conforms : muted.Conforms := by
  refine ⟨by decide +kernel, fun o w _ hw _ => ?_⟩
  have h0 : f32 0x00000000#32 = 0 := by decide +kernel
  change |f32 0x00000000#32 - f32 w| ≤ 2 ^ 128
  rw [h0, zero_sub, abs_neg]
  exact finite_value_bound w hw.1

/-- A word is the word of its own value. -/
theorem isToF32_self (w : Word) (h : isFinite w = true)
    (hs : signBit w = true ↔ f32 w < 0) : IsToF32 (f32 w : ℝ) w := by
  refine ⟨h, fun v _ => by simp, fun v _ hv hd => ?_, by rw [hs]; norm_cast⟩
  rw [sub_self, abs_zero, abs_eq_zero, sub_eq_zero] at hd
  exact absurd (by exact_mod_cast hd.symm) hv

/-- Program P1's frame 0: out = 1/2 · (2 · 0 - 1). -/
theorem filling_sample :
    sampleOut Numerics.real (frameOperands filling (frameEnvelope filling)) = ((-1 / 2 : Rat) : ℝ) := by
  have ho : frameOperands filling (frameEnvelope filling)
      = { gain := mkRat 1 2, freq := 1, kind := .sawtooth, voices := 1, detune := 0x00000000#32,
          time := 0, rate := 8, osr := 1, alpha := 1, strength := 0 } := by decide +kernel
  have hv : validateUnison 1 0x00000000#32 = (1, 0) := by decide +kernel
  rw [ho]
  simp [sampleOut, mixVoices, hv, oscSample, raw, Numerics.real, Rat.mkRat_eq_div]
  norm_num

theorem playing_params_legal : Params.reset.legal ∧ sawParams.legal := by
  constructor <;> decide +kernel

/-- A state in the middle of a FILL meets the invariant. -/
theorem filling_inv : filling.Inv :=
  ⟨playing_params_legal.2, playing_params_legal.2, by decide +kernel, by decide +kernel, by decide,
    by decide, by decide +kernel, List.Pairwise.nil⟩

/-- A sounding frame (its exact word is -0.5) and a silent one. -/
theorem witness_RealizedFrameIsWithinTol :
    muted.Conforms ∧ filling.Inv ∧ filling.fill.fip = true
      ∧ filling.fill.fj.toNat < filling.fill.fn.toNat
      ∧ ∃ t : State, engineStep muted filling = .next t
          ∧ ¬ (t.env.stage = .idle ∨ f32 filling.lastFreq = 0)
          ∧ IsToF32 (sampleOut Numerics.real (frameOperands filling t.env)) 0xBF000000#32 := by
  refine ⟨muted_conforms, filling_inv, rfl, by decide, _, rfl, by decide +kernel, ?_⟩
  have h : f32 0xBF000000#32 = -1 / 2 := by decide +kernel
  change IsToF32 (sampleOut Numerics.real (frameOperands filling (frameEnvelope filling))) _
  rw [filling_sample, ← h]
  exact isToF32_self _ (by decide) (by rw [h]; decide +kernel)

theorem witness_EveryStepKeepsTheInvariant :
    filled.Inv ∧ ∃ t : State, step filled = .next t :=
  ⟨⟨playing_params_legal.2, playing_params_legal.2, by decide +kernel, by decide +kernel, by decide,
    by decide, by decide +kernel, List.Pairwise.nil⟩, _, rfl⟩

/-- CLR_STATUS after an overflow. -/
theorem witness_StickyBitsAreClearedOnlyByClrStatus :
    ∃ t : State,
      step (incoming 0x31000000#32 0#32 (playing.raise .evqOverflow)) = .next t
        ∧ (playing.raise .evqOverflow).status.evqOvf = true ∧ t.status.evqOvf = false :=
  ⟨_, rfl, rfl, rfl⟩

/-- A start from reset, a stop with no FILL in progress, and a deferred stop at its buffer end. -/
theorem witness_RunningChangesOnlyByTransport :
    (after (step (incoming 0x20000000#32 0x41000000#32 State.reset))).map (·.status.running) = some true
      ∧ (after (step (incoming 0x21000000#32 0#32 playing))).map (·.status.running) = some false
      ∧ (after (step { filled with fill := { filled.fill with stopPend := true } })).map
          (·.status.running) = some false := by decide

theorem witness_InvariantStatesNeverFault : filling.Inv := filling_inv

theorem witness_OnlyHostDutyBreachesAreRefused :
    step { filling with inputs := [.port (.audio 1#32 4#32)] } = .refused .fillOutstanding
      ∧ step { filling with inputs := [.port (.audio 1#32 5#32)] } = .refused .fillMisaligned :=
  ⟨rfl, rfl⟩

theorem witness_ReferenceNeverSilencesABuffer :
    filling.Inv ∧ filling.fill.badBuf = false ∧ ∃ t : State, step filling = .next t :=
  ⟨filling_inv, rfl, (engineStep_cases .reference filling).elim (fun h => nomatch h.1) (fun h =>
    h.elim (fun h => ⟨_, h.2.2.2⟩) (fun h => h.elim (fun h => absurd h.2.2.1 (by decide))
      (fun h => absurd h.2.1 (by decide))))⟩

end Sys2Proof.Tests
end

/-! PROOFS. The sample pseudocode in two arithmetics (40_oscillator.md R100, 41_unison.md R130): where each
operation of one is related to that of the other, so is the sample. -/

namespace Sys2Proof.Machine

/-! ### One arithmetic that tracks another gives a sample that tracks the other's -/

/-- Every operation of A, on values related to values of B, gives a value related to that of B's. -/
structure Numerics.Refines {α β : Type} (A : Numerics α) (B : Numerics β) (R : α → β → Prop) :
    Prop where
  exact : ∀ q, R (A.exact q) (B.exact q)
  add : ∀ {x x' y y'}, R x x' → R y y' → R (A.add x y) (B.add x' y')
  sub : ∀ {x x' y y'}, R x x' → R y y' → R (A.sub x y) (B.sub x' y')
  mul : ∀ {x x' y y'}, R x x' → R y y' → R (A.mul x y) (B.mul x' y')
  abs : ∀ {x x'}, R x x' → R (A.abs x) (B.abs x')
  divide : ∀ {x x'}, R x x' → ∀ q, R (A.divide x q) (B.divide x' q)
  clamp : ∀ {x x'}, R x x' → ∀ lo hi, R (A.clamp x lo hi) (B.clamp x' lo hi)
  phase : ∀ {x x'}, R x x' → ∀ τ, R (A.phase x τ) (B.phase x' τ)
  belowHalf : ∀ {φ φ' x x' y y'}, R φ φ' → R x x' → R y y' →
    R (A.belowHalf φ x y) (B.belowHalf φ' x' y')
  sinTurns : ∀ {φ φ'}, R φ φ' → R (A.sinTurns φ) (B.sinTurns φ')
  exp2 : ∀ x, R (A.exp2 x) (B.exp2 x)

section Refines

variable {α β : Type} {A : Numerics α} {B : Numerics β} {R : α → β → Prop}

theorem Numerics.Refines.raw (h : A.Refines B R) (kind : WaveKind) {φ : α} {φ' : β} (hφ : R φ φ')
    (aa : Bool) : R (raw A kind φ aa) (raw B kind φ' aa) := by
  have hline : R (A.sub (A.mul (A.exact 2) φ) (A.exact 1)) (B.sub (B.mul (B.exact 2) φ') (B.exact 1)) :=
    h.sub (h.mul (h.exact 2) hφ) (h.exact 1)
  cases kind with
  | sine => exact h.sinTurns hφ
  | triangle => exact h.sub (h.exact 1) (h.abs hline)
  | square => exact h.belowHalf hφ (h.exact _) (h.exact _)
  | sawtooth => exact hline

/-- The two numbers the filter carries, related one by one. -/
def PairsRelated (R : α → β → Prop) (s : α × α) (s' : β × β) : Prop := R s.1 s'.1 ∧ R s.2 s'.2

theorem Numerics.Refines.filterStep (h : A.Refines B R) (al st : Rat) {s : α × α} {s' : β × β}
    (hs : PairsRelated R s s') {x : α} {x' : β} (hx : R x x') :
    PairsRelated R (filterStep A al st s x) (filterStep B al st s' x') := by
  have hp : R (A.add s.1 (A.mul (A.exact al) (A.sub x s.1)))
      (B.add s'.1 (B.mul (B.exact al) (B.sub x' s'.1))) :=
    h.add hs.1 (h.mul (h.exact al) (h.sub hx hs.1))
  exact ⟨hp, h.add hs.2
    (h.clamp (h.mul hp (h.sub (h.exact 1) (h.mul (h.abs hp) (h.exact st)))) (-1) 1)⟩

/-- Related values for each number of a list are related lists. -/
theorem forall₂_map_range {f : Nat → α} {f' : Nat → β} (hf : ∀ i, R (f i) (f' i)) (n : Nat) :
    List.Forall₂ R ((List.range n).map f) ((List.range n).map f') := by
  rw [List.forall₂_map_left_iff, List.forall₂_map_right_iff, List.forall₂_same]
  exact fun i _ => hf i

theorem Numerics.Refines.oscSample (h : A.Refines B R) (kind : WaveKind) {f : α} {f' : β} (hf : R f f')
    (t sr : Rat) (r : Nat) (al st : Rat) :
    R (oscSample A kind f t sr r al st) (oscSample B kind f' t sr r al st) := by
  have hx (k : Nat) : R (subSample A kind f t sr r k) (subSample B kind f' t sr r k) :=
    h.raw kind (h.phase hf _) true
  unfold Machine.oscSample
  split
  · exact h.raw kind (h.phase hf t) false
  · exact h.divide (List.rel_foldl (R := R) (P := PairsRelated R)
      (fun _ _ hs _ _ hx => h.filterStep al st hs hx) ⟨hx 0, h.exact 0⟩ (forall₂_map_range hx r)).2 r

theorem Numerics.Refines.mixVoices (h : A.Refines B R) {f : α} {f' : β} (hf : R f f') (kind : WaveKind)
    (v : Nat) (d : Word) (t sr : Rat) (r : Nat) (al st : Rat) :
    R (mixVoices A f kind v d t sr r al st) (mixVoices B f' kind v d t sr r al st) := by
  unfold Machine.mixVoices
  generalize validateUnison v d = u
  obtain ⟨v, d⟩ := u
  dsimp only
  split
  · exact h.oscSample kind hf t sr r al st
  · exact h.divide (List.rel_foldl (R := R) (P := R) (fun _ _ hs _ _ hx => h.add hs hx) (h.exact 0)
      (forall₂_map_range (fun i => h.oscSample kind (h.mul hf (h.exp2 _)) t sr r al st) v)) v

theorem Numerics.Refines.sampleOut (h : A.Refines B R) (o : FrameOperands) :
    R (sampleOut A o) (sampleOut B o) :=
  h.mul (h.exact o.gain) (h.mixVoices (h.exact o.freq) o.kind o.voices o.detune o.time o.rate o.osr
    o.alpha o.strength)

end Refines

end Sys2Proof.Machine

/-! PROOFS. The value of the envelope (42_envelope.md R150 to R154), and the frame of a realization
(43_engine.md R194, R197). -/

namespace Sys2Proof.Machine

/-! ### The envelope's value (42_envelope.md R150, R151) -/

/-- The smootherstep's quintic is at least 0 on [0, 1]. -/
theorem smootherstep_quintic_nonneg {c : Rat} (hc : 0 ≤ c) : 0 ≤ c * c * c * (c * (c * 6 - 15) + 10) := by
  have hq : 0 ≤ c * (c * 6 - 15) + 10 := by nlinarith [sq_nonneg (4 * c - 5)]
  positivity

/-- By the symmetry S(c) + S(1 - c) = 1 both bounds are one bound. -/
theorem smootherstep_mem (u : Rat) : 0 ≤ smootherstep u ∧ smootherstep u ≤ 1 := by
  have h0 : 0 ≤ clampRat u 0 1 := le_min (le_max_right _ _) zero_le_one
  have h1 : clampRat u 0 1 ≤ 1 := min_le_right _ _
  have hsym := smootherstep_quintic_nonneg (sub_nonneg.mpr h1)
  refine ⟨smootherstep_quintic_nonneg h0, ?_⟩
  unfold smootherstep
  dsimp only
  nlinarith [hsym]

/-- A point between x and y, both in [0, 1], is in [0, 1]. -/
theorem mix_mem {x y t : Rat} (hx : 0 ≤ x ∧ x ≤ 1) (hy : 0 ≤ y ∧ y ≤ 1) (ht : 0 ≤ t ∧ t ≤ 1) :
    0 ≤ x + (y - x) * t ∧ x + (y - x) * t ≤ 1 := by
  constructor <;> nlinarith [mul_nonneg hx.1 (sub_nonneg.mpr ht.2), mul_nonneg hy.1 ht.1,
    mul_nonneg (sub_nonneg.mpr hx.2) (sub_nonneg.mpr ht.2), mul_nonneg (sub_nonneg.mpr hy.2) ht.1]

/-- VAL(E) is a point between two levels in every stage. -/
theorem envValue_mem {e : Envelope} (ho : 0 ≤ e.origin ∧ e.origin ≤ 1)
    (hs : 0 ≤ e.susSnap ∧ e.susSnap ≤ 1) (a d r : Rat) :
    0 ≤ envValue e a d r ∧ envValue e a d r ≤ 1 := by
  unfold envValue
  cases e.stage with
  | idle => exact ⟨le_rfl, zero_le_one⟩
  | attack => exact mix_mem ho ⟨zero_le_one, le_rfl⟩ (smootherstep_mem _)
  | decay => exact mix_mem ⟨zero_le_one, le_rfl⟩ hs (smootherstep_mem _)
  | sustain => exact hs
  | release =>
    have h := mix_mem ho ⟨le_rfl, zero_le_one⟩ (smootherstep_mem (e.elapsed / r))
    rwa [show e.origin + (0 - e.origin) * smootherstep (e.elapsed / r)
      = e.origin * (1 - smootherstep (e.elapsed / r)) by ring] at h

/-- The three transitions keep the captured sustain level, and the origin or reset it to 0. -/
theorem transitions_origin_susSnap (a d r : Rat) (e : Envelope) :
    let u := releaseToIdle r (decayToSustain d (attackToDecay a e))
    (u.origin = e.origin ∨ u.origin = 0) ∧ u.susSnap = e.susSnap := by
  have ha : (attackToDecay a e).origin = e.origin ∧ (attackToDecay a e).susSnap = e.susSnap := by
    unfold attackToDecay; split <;> exact ⟨rfl, rfl⟩
  have hd (x : Envelope) :
      (decayToSustain d x).origin = x.origin ∧ (decayToSustain d x).susSnap = x.susSnap := by
    unfold decayToSustain; split <;> exact ⟨rfl, rfl⟩
  have hr (x : Envelope) :
      ((releaseToIdle r x).origin = x.origin ∨ (releaseToIdle r x).origin = 0)
        ∧ (releaseToIdle r x).susSnap = x.susSnap := by
    unfold releaseToIdle
    split
    · exact ⟨.inr rfl, rfl⟩
    · exact ⟨.inl rfl, rfl⟩
  have hda := hd (attackToDecay a e)
  have hrda := hr (decayToSustain d (attackToDecay a e))
  rw [hda.1, ha.1, hda.2, ha.2] at hrda
  exact hrda

/-- An update leaves the value in [0, 1], from every origin and captured level in [0, 1]. -/
theorem envUpdate_value_mem {e : Envelope} (ho : 0 ≤ e.origin ∧ e.origin ≤ 1)
    (hs : 0 ≤ e.susSnap ∧ e.susSnap ≤ 1) (dt ap dp rp : Rat) :
    0 ≤ (envUpdate dt ap dp rp e).value ∧ (envUpdate dt ap dp rp e).value ≤ 1 := by
  obtain ⟨stage, value, elapsed, origin, susSnap, note, noteValid⟩ := e
  unfold envUpdate
  generalize atLeastEps ap = a, atLeastEps dp = d, atLeastEps rp = r
  obtain ⟨ho', hs'⟩ := transitions_origin_susSnap a d r
    ⟨stage, value, elapsed + dt, origin, susSnap, note, noteValid⟩
  have hmoved := envValue_mem (a := a) (d := d) (r := r)
    (ho'.elim (fun h => h.symm ▸ ho) fun h => h.symm ▸ ⟨le_rfl, zero_le_one⟩) (hs'.symm ▸ hs)
  cases stage with
  | idle => exact ⟨le_rfl, zero_le_one⟩
  | sustain => exact hs
  | attack | decay | release => exact hmoved

/-! ### The word of 0 -/

theorem f32_zero : f32 0#32 = 0 := by decide +kernel

/-- The only value a word of 0 has is 0. -/
theorem IsToF32.f32_eq_zero {w : Word} (h : IsToF32 0 w) : f32 w = 0 := by
  obtain ⟨-, hnear, -, -⟩ := h
  have hw := hnear 0#32 (by decide)
  rw [f32_zero, Rat.cast_zero, sub_zero, abs_zero, zero_sub, abs_neg] at hw
  exact_mod_cast abs_nonpos_iff.mp hw

/-! ### A frame of a realization (43_engine.md R194, R197) -/

/-- From the invariant, a sounding frame's operands are legal. -/
theorem frameOperands_legal {s : State} (hinv : s.Inv) (hrate : rateAccepted s.srate = true)
    (hfreq : f32 s.lastFreq ≠ 0) : (frameOperands s (frameEnvelope s)).legal := by
  obtain ⟨-, hsnap, ⟨-, hfreq0, -⟩, henv, -⟩ := hinv
  obtain ⟨-, -, -, -, -, -, -, -, hosr1, hosr16, ⟨-, hal0, hal1⟩, -, hst0, hst1⟩ := hsnap
  obtain ⟨-, -, -, ho0, ho1, hs0, hs1, -⟩ := henv
  have hsr : 0 < f32 s.srate := by
    simp only [rateAccepted, Bool.and_eq_true, decide_eq_true_eq] at hrate
    exact hrate.2
  have hgain := envUpdate_value_mem ⟨ho0, ho1⟩ ⟨hs0, hs1⟩ (1 / f32 s.srate)
    (f32 s.snap.envpGroup.attack) (f32 s.snap.envpGroup.decay) (f32 s.snap.envpGroup.release)
  exact ⟨hgain.1, hgain.2, lt_of_le_of_ne hfreq0 hfreq.symm, div_nonneg (Nat.cast_nonneg _) hsr.le,
    hsr, hosr1, hosr16, hal0, hal1, hst0, hst1⟩

/-- An engine step that answers a next state while a frame is due is that frame, at an accepted rate. -/
theorem engineStep_frame {R : Realization} {s t : State} (hfip : s.fill.fip = true)
    (hj : s.fill.fj.toNat < s.fill.fn.toNat) (hstep : engineStep R s = .next t) :
    rateAccepted s.srate = true
      ∧ t = frameNext s (frameEnvelope s) (frameWord R s (frameEnvelope s)) := by
  rcases engineStep_cases R s with ⟨h, -⟩ | ⟨-, -, hrate, h⟩ | ⟨-, -, -, h⟩ | ⟨-, h, -⟩
  · simp [hfip] at h
  · exact ⟨hrate, (Host.Outcome.next.inj (h.symm.trans hstep)).symm⟩
  · simp [h] at hstep
  · exact absurd hj h

/-- Settles O60: the frame's word is +0.0 in a silent frame, where the reference word is a zero too, and
else the realization's word for operands that the invariant makes legal. -/
theorem realizedFrameIsWithinTol : Obligations.RealizedFrameIsWithinTol := by
  intro R s t w0 hR hinv hfip hj hstep out hout
  obtain ⟨hrate, rfl⟩ := engineStep_frame hfip hj hstep
  refine ⟨frameWord R s (frameEnvelope s), Memory.readWord_writeWord_same _ _ _, fun hfin => ?_⟩
  by_cases hsilent : (frameEnvelope s).stage = .idle ∨ f32 s.lastFreq = 0
  · have hw0 : f32 w0 = 0 := IsToF32.f32_eq_zero (by simpa [out, hsilent] using hout)
    simpa [frameWord, hsilent, hw0, f32_zero] using hR.1
  · have hword : frameWord R s (frameEnvelope s) = R.word (frameOperands s (frameEnvelope s)) :=
      if_neg hsilent
    rw [hword] at hfin ⊢
    refine hR.2 _ w0 (frameOperands_legal hinv hrate fun h => hsilent (.inr h)) ?_ hfin
    simpa [out, hsilent] using hout

end Sys2Proof.Machine

/-! PROOFS. binary32 (00_scope.md R8, R9): the fields and the value of a word, and the rounding of a
rational to the nearest word. -/

namespace Sys2Proof.Machine

/-! ### The fields of a word as numbers (00_scope.md R9) -/

theorem expField_eq (w : Word) : expField w = w.toNat / 2 ^ 23 % 2 ^ 8 := by
  simp [expField, BitVec.extractLsb'_toNat, Nat.shiftRight_eq_div_pow]

theorem fracField_eq (w : Word) : fracField w = w.toNat % 2 ^ 23 := by
  simp [fracField, BitVec.extractLsb'_toNat]

theorem signBit_iff (w : Word) : signBit w = true ↔ 2 ^ 31 ≤ w.toNat := by
  rw [signBit, ← BitVec.msb_eq_getLsbD_last, BitVec.msb_eq_decide, decide_eq_true_iff]

theorem isFinite_iff (w : Word) : isFinite w = true ↔ expField w ≠ 255 := by simp [isFinite]

/-- A word is its three fields. -/
theorem toNat_eq_fields (w : Word) :
    w.toNat = (if signBit w = true then 2 ^ 31 else 0) + expField w * 2 ^ 23 + fracField w := by
  have hw := w.isLt
  have hs := signBit_iff w
  rw [expField_eq, fracField_eq]
  split <;> rename_i h <;> rw [hs] at h <;> omega

/-- The fields of the word with a given sign and, below it, a given 31-bit number. -/
theorem fields_of_toNat {w : Word} {neg : Prop} [Decidable neg] {r : Nat}
    (hw : w.toNat = (if neg then 2 ^ 31 else 0) + r) (hr : r < 2 ^ 31) :
    (signBit w = true ↔ neg) ∧ expField w = r / 2 ^ 23 ∧ fracField w = r % 2 ^ 23 := by
  rw [signBit_iff, expField_eq, fracField_eq, hw]
  split <;> rename_i h <;> simp only [h, iff_true, iff_false] <;> omega

theorem significand_lt (w : Word) : significand w < 2 ^ 24 := by
  have := fracField_eq w
  unfold significand
  split <;> omega

theorem one_le_unitScale (w : Word) : 1 ≤ unitScale w := by
  unfold unitScale
  split <;> omega

/-- Only a word of the smallest scale has a significand without the hidden bit. -/
theorem le_significand {w : Word} (h : 1 < unitScale w) : 2 ^ 23 ≤ significand w := by
  unfold unitScale at h
  unfold significand
  split <;> simp_all

theorem unitScale_le {w : Word} (h : isFinite w = true) : unitScale w ≤ 254 := by
  have := expField_eq w
  rw [isFinite_iff] at h
  unfold unitScale
  split <;> omega

/-- The sign, the significand and the scale fix a word. -/
theorem word_eq_of_sign_significand_unitScale {v w : Word} (hs : signBit v = signBit w)
    (hm : significand v = significand w) (hu : unitScale v = unitScale w) : v = w := by
  have hv := fracField_eq v
  have hw := fracField_eq w
  have hfields : expField v = expField w ∧ fracField v = fracField w := by
    unfold significand at hm
    unfold unitScale at hu
    split_ifs at hm hu <;> omega
  apply BitVec.eq_of_toNat_eq
  rw [toNat_eq_fields v, toNat_eq_fields w, hs, hfields.1, hfields.2]

/-! ### The value of a finite word (00_scope.md R8) -/

/-- The sign of a word as a factor. -/
def signFactor (w : Word) : Rat := if signBit w = true then -1 else 1

theorem signFactor_cases (w : Word) : signFactor w = 1 ∨ signFactor w = -1 := by
  unfold signFactor
  split
  · exact .inr rfl
  · exact .inl rfl

theorem abs_signFactor (w : Word) : |signFactor w| = 1 := by
  rcases signFactor_cases w with h | h <;> rw [h] <;> simp

@[simp] theorem signFactor_mul_signFactor_mul (w : Word) (x : Rat) :
    signFactor w * (signFactor w * x) = x := by
  rcases signFactor_cases w with h | h <;> rw [h] <;> ring

/-- A distance from a number with the sign of `w` is one from its size. -/
theorem abs_sub_of_sign {q : Rat} {w : Word} (h : signBit w = true ↔ q < 0) (v : Rat) :
    |q - v| = |(|q|) - signFactor w * v| := by
  unfold signFactor
  split <;> rename_i hs <;> rw [h] at hs
  · rw [abs_of_neg hs, ← abs_neg]
    congr 1
    ring
  · rw [abs_of_nonneg (not_lt.mp hs), one_mul]

theorem f32_eq {w : Word} (h : isFinite w = true) :
    f32 w = signFactor w * (significand w * 2 ^ ((unitScale w : ℤ) - 150)) := by
  rw [f32, if_pos h, finiteValue]
  have hm : ((if signBit w = true then -(significand w : ℤ) else significand w : ℤ) : Rat)
      = signFactor w * significand w := by
    unfold signFactor
    split <;> simp
  generalize (if signBit w = true then -(significand w : ℤ) else significand w : ℤ) = m at hm
  split
  · next hu =>
    rw [show (unitScale w : ℤ) - 150 = ((unitScale w - 150 : ℕ) : ℤ) by omega, zpow_natCast,
      Rat.mkRat_eq_div]
    push_cast
    rw [hm]
    ring
  · next hu =>
    rw [show (unitScale w : ℤ) - 150 = -((150 - unitScale w : ℕ) : ℤ) by omega, zpow_neg,
      zpow_natCast, Rat.mkRat_eq_div, hm]
    push_cast
    ring

theorem abs_f32 {w : Word} (h : isFinite w = true) :
    |f32 w| = significand w * 2 ^ ((unitScale w : ℤ) - 150) := by
  rw [f32_eq h, abs_mul, abs_signFactor, one_mul, abs_of_nonneg (by positivity)]

/-- The largest finite value. -/
theorem f32_largest : f32 0x7F7FFFFF#32 = (2 ^ 24 - 1) * 2 ^ 104 := by decide +kernel

theorem abs_f32_le_largest {w : Word} (h : isFinite w = true) : |f32 w| ≤ f32 0x7F7FFFFF#32 := by
  have hm : (significand w : Rat) ≤ 2 ^ 24 - 1 := by
    have := significand_lt w
    rw [le_sub_iff_add_le]
    exact_mod_cast this
  have hu : (2 : Rat) ^ ((unitScale w : ℤ) - 150) ≤ 2 ^ (104 : ℤ) :=
    zpow_le_zpow_right₀ one_le_two (by have := unitScale_le h; omega)
  rw [abs_f32 h, f32_largest]
  exact mul_le_mul hm (by exact_mod_cast hu) (by positivity) (by norm_num)

/-- The sign bit tells the sign of the value of every finite word but -0.0. -/
theorem signBit_iff_f32_neg {w : Word} (h : isFinite w = true) (h0 : w ≠ 0x80000000#32) :
    signBit w = true ↔ f32 w < 0 := by
  rw [f32_eq h]
  have hpow : (0 : Rat) < 2 ^ ((unitScale w : ℤ) - 150) := by positivity
  unfold signFactor
  split
  · next hs =>
    have hm : 0 < significand w := by
      refine Nat.pos_of_ne_zero fun hm => h0 (word_eq_of_sign_significand_unitScale ?_ ?_ ?_)
      · rw [hs]; decide
      · rw [hm]; decide
      · have h1 := one_le_unitScale w
        have h2 := @le_significand w
        have h3 : unitScale 0x80000000#32 = 1 := by decide
        omega
    have : (0 : Rat) < significand w := by exact_mod_cast hm
    simp only [hs, true_iff]
    have := mul_pos this hpow
    linarith
  · next hs =>
    rw [iff_false_left hs, not_lt, one_mul]
    positivity

/-- Two finite words of one size have one significand and one scale: at the larger scale the hidden bit
makes the number at least 2^24 units of the smaller one. -/
theorem unitScale_le_of_abs_f32_eq {v w : Word} (hv : isFinite v = true) (hw : isFinite w = true)
    (h : |f32 v| = |f32 w|) : unitScale w ≤ unitScale v := by
  by_contra! hlt
  have hm : (2 : Rat) ^ 23 ≤ significand w := by
    exact_mod_cast le_significand (lt_of_le_of_lt (one_le_unitScale v) hlt)
  have hm' : (significand v : Rat) < 2 ^ 24 := by exact_mod_cast significand_lt v
  have hpow : (2 : Rat) * 2 ^ ((unitScale v : ℤ) - 150) ≤ 2 ^ ((unitScale w : ℤ) - 150) := by
    rw [← zpow_one_add₀ two_ne_zero]
    exact zpow_le_zpow_right₀ one_le_two (by omega)
  have hpos : (0 : Rat) < 2 ^ ((unitScale v : ℤ) - 150) := by positivity
  rw [abs_f32 hv, abs_f32 hw] at h
  nlinarith [mul_le_mul hm hpow (by positivity) (by positivity)]

theorem word_eq_of_f32_eq {v w : Word} (hv : isFinite v = true) (hw : isFinite w = true)
    (hs : signBit v = signBit w) (h : f32 v = f32 w) : v = w := by
  have habs : |f32 v| = |f32 w| := by rw [h]
  have hu : unitScale v = unitScale w :=
    (unitScale_le_of_abs_f32_eq hw hv habs.symm).antisymm (unitScale_le_of_abs_f32_eq hv hw habs)
  refine word_eq_of_sign_significand_unitScale hs ?_ hu
  rw [abs_f32 hv, abs_f32 hw, hu] at habs
  exact_mod_cast mul_right_cancel₀ (by positivity) habs

/-! ### Rounding a quotient to a whole number -/

/-- `m` is a whole number nearest to z, and even where z is half way between two. -/
def NearestEven (z : Rat) (m : Nat) : Prop := |z - m| ≤ 1 / 2 ∧ (|z - m| = 1 / 2 → m % 2 = 0)

theorem divHalfEven_nearestEven (n : Nat) {d : Nat} (hd : 0 < d) :
    NearestEven ((n : Rat) / d) (divHalfEven n d) := by
  have hd' : (0 : Rat) < d := by exact_mod_cast hd
  have hn : (n : Rat) / d = (n / d : ℕ) + ((n % d : ℕ) : Rat) / d := by
    rw [eq_comm, ← mul_right_inj' hd'.ne', mul_add, mul_div_cancel₀ _ hd'.ne',
      mul_div_cancel₀ _ hd'.ne']
    exact_mod_cast Nat.div_add_mod n d
  have hfrac : (0 : Rat) ≤ ((n % d : ℕ) : Rat) / d := by positivity
  have hfrac1 : ((n % d : ℕ) : Rat) / d < 1 := by
    rw [div_lt_one hd']
    exact_mod_cast Nat.mod_lt n hd
  have hhalf : 2 * (n % d) < d ↔ ((n % d : ℕ) : Rat) / d < 1 / 2 := by
    rw [div_lt_div_iff₀ hd' two_pos, one_mul, mul_comm]
    exact_mod_cast Iff.rfl
  have hhalf' : d < 2 * (n % d) ↔ 1 / 2 < ((n % d : ℕ) : Rat) / d := by
    rw [div_lt_div_iff₀ two_pos hd', one_mul, mul_comm _ (2 : Rat)]
    exact_mod_cast Iff.rfl
  unfold NearestEven divHalfEven
  rw [hn]
  generalize ((n % d : ℕ) : Rat) / d = f at *
  dsimp only
  split_ifs with h1 h2 h3
  · rw [hhalf] at h1
    rw [add_sub_cancel_left, abs_of_nonneg hfrac]
    exact ⟨h1.le, fun h => absurd h h1.ne⟩
  · rw [hhalf'] at h2
    push_cast
    rw [add_sub_add_left_eq_sub, abs_of_neg (by linarith)]
    exact ⟨by linarith, fun h => by linarith⟩
  · rw [hhalf, not_lt] at h1
    rw [hhalf', not_lt] at h2
    rw [add_sub_cancel_left, abs_of_nonneg hfrac]
    exact ⟨h2, fun _ => h3⟩
  · rw [hhalf, not_lt] at h1
    push_cast
    rw [add_sub_add_left_eq_sub, abs_of_neg (by linarith)]
    exact ⟨by linarith, fun _ => by omega⟩

/-- No whole number is nearer, and one as near is the same or leaves an even one. -/
theorem NearestEven.le_of_int {z : Rat} {m : Nat} (h : NearestEven z m) (k : ℤ) :
    |z - m| ≤ |z - k| ∧ (k ≠ m → |z - k| = |z - m| → m % 2 = 0) := by
  by_cases hk : k = m
  · subst hk
    simp
  · have hone : (1 : Rat) ≤ |(k : Rat) - m| := by
      exact_mod_cast Int.one_le_abs (sub_ne_zero.mpr hk)
    have htri : |(k : Rat) - m| ≤ |z - k| + |z - m| := by
      rw [abs_sub_comm z]
      simpa using abs_sub_le (k : Rat) z m
    exact ⟨by linarith [h.1], fun _ heq => h.2 (by linarith [h.1])⟩

theorem NearestEven.le_nat {z : Rat} {m M : Nat} (h : NearestEven z m) (hz : z ≤ M) : m ≤ M := by
  by_contra! hlt
  have hlt' : (M : Rat) < m := by exact_mod_cast hlt
  have := (h.le_of_int M).1
  rw [abs_of_neg (by linarith), abs_of_nonpos (by push_cast; linarith)] at this
  push_cast at this
  linarith

theorem NearestEven.nat_le {z : Rat} {m M : Nat} (h : NearestEven z m) (hz : M ≤ z) : M ≤ m := by
  by_contra! hlt
  have hlt' : (m : Rat) < M := by exact_mod_cast hlt
  have := (h.le_of_int M).1
  rw [abs_of_pos (by linarith), abs_of_nonneg (by push_cast; linarith)] at this
  push_cast at this
  linarith

/-! ### The binade of a quotient -/

theorem two_zpow_of_nonneg {k : ℤ} (h : 0 ≤ k) : (2 : Rat) ^ k = 2 ^ k.toNat := by
  rw [← zpow_natCast, Int.toNat_of_nonneg h]

theorem two_zpow_of_neg {k : ℤ} (h : ¬ 0 ≤ k) : (2 : Rat) ^ k = (2 ^ (-k).toNat)⁻¹ := by
  rw [← zpow_natCast, ← zpow_neg, Int.toNat_of_nonneg (by omega), neg_neg]

theorem pow2Le_iff (k : ℤ) (n : Nat) {d : Nat} (hd : 0 < d) :
    pow2Le k n d = true ↔ (2 : Rat) ^ k ≤ n / d := by
  have hd' : (0 : Rat) < d := by exact_mod_cast hd
  rw [le_div_iff₀ hd', pow2Le]
  split
  · next hk =>
    rw [decide_eq_true_iff, two_zpow_of_nonneg hk, mul_comm]
    exact_mod_cast Iff.rfl
  · next hk =>
    rw [decide_eq_true_iff, two_zpow_of_neg hk, inv_mul_le_iff₀ (by positivity), mul_comm]
    exact_mod_cast Iff.rfl

theorem log2_bounds {n : Nat} (hn : 0 < n) :
    (2 : Rat) ^ (Nat.log2 n : ℤ) ≤ n ∧ (n : Rat) < 2 ^ ((Nat.log2 n : ℤ) + 1) := by
  have h1 : 2 ^ Nat.log2 n ≤ n := Nat.log2_self_le hn.ne'
  have h2 : n < 2 ^ (Nat.log2 n + 1) := Nat.lt_log2_self
  exact ⟨by exact_mod_cast h1, by exact_mod_cast h2⟩

theorem floorLog2_bounds {n d : Nat} (hn : 0 < n) (hd : 0 < d) :
    (2 : Rat) ^ floorLog2 n d ≤ n / d ∧ (n : Rat) / d < 2 ^ (floorLog2 n d + 1) := by
  obtain ⟨hn1, hn2⟩ := log2_bounds hn
  obtain ⟨hd1, hd2⟩ := log2_bounds hd
  have hd' : (0 : Rat) < d := by exact_mod_cast hd
  have htop : (n : Rat) / d < 2 ^ ((Nat.log2 n : ℤ) - Nat.log2 d + 1) := by
    rw [div_lt_iff₀ hd']
    calc (n : Rat) < 2 ^ ((Nat.log2 n : ℤ) + 1) := hn2
      _ = 2 ^ ((Nat.log2 n : ℤ) - Nat.log2 d + 1) * 2 ^ (Nat.log2 d : ℤ) := by
        rw [← zpow_add₀ two_ne_zero]; congr 1; ring
      _ ≤ _ := by gcongr
  have hlow : (2 : Rat) ^ ((Nat.log2 n : ℤ) - Nat.log2 d - 1) ≤ n / d := by
    rw [le_div_iff₀ hd']
    calc (2 : Rat) ^ ((Nat.log2 n : ℤ) - Nat.log2 d - 1) * d
        ≤ 2 ^ ((Nat.log2 n : ℤ) - Nat.log2 d - 1) * 2 ^ ((Nat.log2 d : ℤ) + 1) := by gcongr
      _ = 2 ^ (Nat.log2 n : ℤ) := by rw [← zpow_add₀ two_ne_zero]; congr 1; ring
      _ ≤ n := hn1
  have hle := pow2Le_iff ((Nat.log2 n : ℤ) - Nat.log2 d) n hd
  unfold floorLog2
  dsimp only
  split
  · next h => exact ⟨hle.mp h, htop⟩
  · next h =>
    rw [hle, not_le] at h
    exact ⟨hlow, by rwa [sub_add_cancel]⟩

/-! ### The rounding of a magnitude -/

/-- The exponent of the unit in which n / d is rounded: that of its binade, and of the subnormal binade
at least. -/
def binade (n d : Nat) : ℤ := max (floorLog2 n d) (-126)

theorem neg_126_le_binade (n d : Nat) : -126 ≤ binade n d := le_max_right _ _

theorem lt_binade {n d : Nat} (hn : 0 < n) (hd : 0 < d) : (n : Rat) / d < 2 ^ (binade n d + 1) :=
  (floorLog2_bounds hn hd).2.trans_le
    (zpow_le_zpow_right₀ one_le_two (add_le_add_left (le_max_left _ _) 1))

theorem binade_le {n d : Nat} (hn : 0 < n) (hd : 0 < d) (h : -126 < binade n d) :
    (2 : Rat) ^ binade n d ≤ n / d := by
  have : binade n d = floorLog2 n d := by unfold binade at *; omega
  rw [this]
  exact (floorLog2_bounds hn hd).1

/-- A quotient scaled by a power of 2, above or below the fraction line. -/
theorem divHalfEven_scaled_nearestEven (n : Nat) {d : Nat} (hd : 0 < d) (up : ℤ) :
    NearestEven ((n : Rat) / d * 2 ^ up)
      (if 0 ≤ up then divHalfEven (n * 2 ^ up.toNat) d else divHalfEven n (d * 2 ^ (-up).toNat)) := by
  split
  · next h =>
    rw [two_zpow_of_nonneg h, div_mul_eq_mul_div]
    exact_mod_cast divHalfEven_nearestEven (n * 2 ^ up.toNat) hd
  · next h =>
    rw [two_zpow_of_neg h, ← div_eq_mul_inv, div_div]
    exact_mod_cast divHalfEven_nearestEven n (d := d * 2 ^ (-up).toNat) (by positivity)

/-- The significand `m` is n / d in units of 2^(binade - 23), rounded to a whole number. -/
theorem roundMagnitude_cases (n : Nat) {d : Nat} (hd : 0 < d) :
    ∃ m : Nat, NearestEven ((n : Rat) / d * 2 ^ (23 - binade n d)) m
      ∧ roundMagnitude n d = min ((binade n d + 126).toNat * 2 ^ 23 + m) 0x7F800000 :=
  ⟨_, divHalfEven_scaled_nearestEven n hd _, rfl⟩

/-! ### The word of a magnitude -/

/-- The fields of a word that holds the significand `m`, of the hidden bit's size unless the exponent is
the smallest, in units of 2^(e - 23): a significand of 2^24 carries into the exponent field. -/
theorem value_of_exponent_and_significand {w : Word} {e : ℤ} {m : Nat} (he : -126 ≤ e)
    (hm : e = -126 ∨ 2 ^ 23 ≤ m) (hm' : m ≤ 2 ^ 24)
    (hexp : expField w = ((e + 126).toNat * 2 ^ 23 + m) / 2 ^ 23)
    (hfrac : fracField w = ((e + 126).toNat * 2 ^ 23 + m) % 2 ^ 23) :
    (significand w : Rat) * 2 ^ ((unitScale w : ℤ) - 150) = m * 2 ^ (e - 23) := by
  rcases hm'.lt_or_eq with hlt | rfl
  · have hsig : significand w = m ∧ (unitScale w : ℤ) - 150 = e - 23 := by
      unfold significand unitScale
      split <;> omega
    rw [hsig.1, hsig.2]
  · have hsig : significand w = 2 ^ 23 ∧ (unitScale w : ℤ) - 150 = e - 23 + 1 := by
      unfold significand unitScale
      split <;> omega
    rw [hsig.1, hsig.2, zpow_add_one₀ two_ne_zero]
    push_cast
    ring

/-! ### No finite word is nearer -/

/-- Every finite value is a multiple of the unit 2^(e - 23), or lies below the binade of e. -/
theorem f32_multiple_or_lt {w : Word} (h : isFinite w = true) {e : ℤ} (he : -126 ≤ e) :
    (∃ k : ℤ, f32 w = k * 2 ^ (e - 23)) ∨ (-126 < e ∧ |f32 w| < 2 ^ e) := by
  by_cases hu : e + 127 ≤ unitScale w
  · obtain ⟨j, hj⟩ := Int.le.dest hu
    refine .inl ⟨(if signBit w = true then -1 else 1) * (significand w * 2 ^ j), ?_⟩
    have hpow : (2 : Rat) ^ ((unitScale w : ℤ) - 150) = 2 ^ j * 2 ^ (e - 23) := by
      rw [← zpow_natCast, ← zpow_add₀ two_ne_zero, ← hj]
      congr 1
      ring
    rw [f32_eq h, hpow, signFactor]
    push_cast
    ring
  · have h1 := one_le_unitScale w
    refine .inr ⟨by omega, ?_⟩
    rw [abs_f32 h]
    calc (significand w : Rat) * 2 ^ ((unitScale w : ℤ) - 150)
        < 2 ^ (24 : ℤ) * 2 ^ ((unitScale w : ℤ) - 150) := by
          gcongr
          exact_mod_cast significand_lt w
      _ = 2 ^ ((unitScale w : ℤ) - 126) := by rw [← zpow_add₀ two_ne_zero]; congr 1; ring
      _ ≤ 2 ^ e := zpow_le_zpow_right₀ one_le_two (by omega)

/-- For a magnitude x in the binade of e, rounded to `m` units, no multiple of the unit and no number
below the binade is nearer. -/
theorem NearestEven.nearest {x v : Rat} {e : ℤ} {m : Nat} (h : NearestEven (x * 2 ^ (23 - e)) m)
    (hx : -126 < e → 2 ^ e ≤ x)
    (hv : (∃ k : ℤ, v = k * 2 ^ (e - 23)) ∨ (-126 < e ∧ |v| < 2 ^ e)) :
    |x - m * 2 ^ (e - 23)| ≤ |x - v|
      ∧ (v ≠ m * 2 ^ (e - 23) → |x - v| = |x - m * 2 ^ (e - 23)| → m % 2 = 0) := by
  have hu : (0 : Rat) < 2 ^ (e - 23) := by positivity
  have hscale (k : Rat) : |x - k * 2 ^ (e - 23)| = |x * 2 ^ (23 - e) - k| * 2 ^ (e - 23) := by
    rw [← abs_of_pos hu, ← abs_mul, abs_of_pos hu, sub_mul, mul_assoc, ← zpow_add₀ two_ne_zero]
    simp
  have hmul (k : ℤ) : |x - m * 2 ^ (e - 23)| ≤ |x - k * 2 ^ (e - 23)| := by
    rw [hscale, hscale]
    exact mul_le_mul_of_nonneg_right (h.le_of_int k).1 hu.le
  rcases hv with ⟨k, rfl⟩ | ⟨he, hlt⟩
  · refine ⟨hmul k, fun hne heq => (h.le_of_int k).2 (fun hk => hne (by simp [hk])) ?_⟩
    rw [hscale, hscale] at heq
    exact mul_right_cancel₀ hu.ne' heq
  · have hbase : ((2 ^ 23 : ℤ) : Rat) * 2 ^ (e - 23) = 2 ^ e := by
      rw [show ((2 ^ 23 : ℤ) : Rat) = 2 ^ (23 : ℤ) by norm_num, ← zpow_add₀ two_ne_zero]
      congr 1
      ring
    have hm := hmul (2 ^ 23)
    have hvlt := (abs_lt.mp hlt).2
    rw [hbase, abs_of_nonneg (sub_nonneg.mpr (hx he))] at hm
    rw [abs_of_pos (a := x - v) (by linarith [hx he])]
    exact ⟨by linarith, fun _ heq => by linarith⟩

/-! ### toF32 -/

/-- The sizes of the rounded significand and of the exponent of a magnitude in the binade of e: neither
leaves the fields of a finite word. -/
theorem NearestEven.significand_bounds {x : Rat} {e : ℤ} {m : Nat}
    (h : NearestEven (x * 2 ^ (23 - e)) m) (he : -126 ≤ e) (hlow : -126 < e → 2 ^ e ≤ x)
    (hhigh : x < 2 ^ (e + 1)) (hmax : x ≤ f32 0x7F7FFFFF#32) :
    m ≤ 2 ^ 24 ∧ (e = -126 ∨ 2 ^ 23 ≤ m) ∧ e ≤ 127 ∧ (e = 127 → m ≤ 2 ^ 24 - 1) := by
  rw [f32_largest] at hmax
  refine ⟨h.le_nat ?_, he.eq_or_lt.imp Eq.symm fun he' => h.nat_le ?_, ?_, fun he' => h.le_nat ?_⟩
  · calc x * 2 ^ (23 - e) ≤ 2 ^ (e + 1) * 2 ^ (23 - e) := by gcongr
      _ = ((2 ^ 24 : ℕ) : Rat) := by
        rw [← zpow_add₀ two_ne_zero, show e + 1 + (23 - e) = 24 by ring]
        norm_num
  · calc ((2 ^ 23 : ℕ) : Rat) = 2 ^ e * 2 ^ (23 - e) := by
          rw [← zpow_add₀ two_ne_zero, add_sub_cancel]
          norm_num
      _ ≤ x * 2 ^ (23 - e) := by
        gcongr
        exact hlow he'
  · by_contra! hlt
    have h1 : (2 : Rat) ^ (128 : ℤ) ≤ 2 ^ e := zpow_le_zpow_right₀ one_le_two hlt
    have h2 : ((2 ^ 24 - 1) * 2 ^ 104 : Rat) < 2 ^ (128 : ℤ) := by norm_num
    linarith [hlow (by omega)]
  · subst he'
    calc x * 2 ^ (23 - 127 : ℤ) ≤ ((2 ^ 24 - 1) * 2 ^ 104) * 2 ^ (23 - 127 : ℤ) := by gcongr
      _ = ((2 ^ 24 - 1 : ℕ) : Rat) := by norm_num

/-- The word of a nonzero rational of at most the largest finite size: its sign, and a magnitude rounded
to `m` units of 2^(e - 23). -/
theorem toF32_spec {q : Rat} (hq : q ≠ 0) (hmax : |q| ≤ f32 0x7F7FFFFF#32) :
    ∃ (e : ℤ) (m : Nat), -126 ≤ e ∧ (-126 < e → 2 ^ e ≤ |q|) ∧ NearestEven (|q| * 2 ^ (23 - e)) m
      ∧ isFinite (toF32 q) = true ∧ (signBit (toF32 q) = true ↔ q < 0)
      ∧ f32 (toF32 q) = signFactor (toF32 q) * (m * 2 ^ (e - 23))
      ∧ fracField (toF32 q) % 2 = m % 2 := by
  have hn : 0 < q.num.natAbs := Int.natAbs_pos.mpr (Rat.num_ne_zero.mpr hq)
  have hd := q.den_pos
  have habs : (q.num.natAbs : Rat) / q.den = |q| := by
    rw [Nat.cast_natAbs, Int.cast_abs, ← Nat.abs_cast q.den, ← abs_div, Rat.num_div_den]
  obtain ⟨m, hm, hround⟩ := roundMagnitude_cases q.num.natAbs hd
  have he := neg_126_le_binade q.num.natAbs q.den
  have hlow := binade_le hn hd
  have hhigh := lt_binade hn hd
  rw [habs] at hm hlow hhigh
  generalize binade q.num.natAbs q.den = e at *
  obtain ⟨hm24, hm23, he127, hm24'⟩ := hm.significand_bounds he hlow hhigh hmax
  have hr : (e + 126).toNat * 2 ^ 23 + m < 0x7F800000 := by omega
  have hword : (toF32 q).toNat = (if q < 0 then 2 ^ 31 else 0) + ((e + 126).toNat * 2 ^ 23 + m) := by
    rw [toF32, if_neg (Rat.num_ne_zero.mpr hq), hround, min_eq_left hr.le, BitVec.toNat_ofNat]
    simp only [Rat.num_neg]
    split <;> omega
  obtain ⟨hsign, hexp, hfrac⟩ := fields_of_toNat hword (by omega)
  have hfin : isFinite (toF32 q) = true := (isFinite_iff _).mpr (by omega)
  refine ⟨e, m, he, hlow, hm, hfin, hsign, ?_, by omega⟩
  rw [f32_eq hfin, value_of_exponent_and_significand he hm23 hm24 hexp hfrac]

/-- toF32(0) is the word of +0.0. -/
theorem isToF32_zero : IsToF32 ((0 : Rat) : ℝ) (toF32 0) := by
  have h0 : f32 (toF32 0) = 0 := by decide +kernel
  refine ⟨by decide, fun v _ => by simp [h0], fun v _ hne heq => ?_, by simp [toF32, signBit]⟩
  rw [h0] at hne heq
  simp [hne] at heq

/-- The rounding of a magnitude, with the sign back on. -/
theorem toF32_nearest {q : Rat} (hq : q ≠ 0) (hmax : |q| ≤ f32 0x7F7FFFFF#32) {v : Word}
    (hv : isFinite v = true) :
    |q - f32 (toF32 q)| ≤ |q - f32 v|
      ∧ (f32 v ≠ f32 (toF32 q) → |q - f32 v| = |q - f32 (toF32 q)| →
        fracField (toF32 q) % 2 = 0) := by
  obtain ⟨e, m, he, hlow, hm, -, hsign, hval, hpar⟩ := toF32_spec hq hmax
  have hv' : (∃ k : ℤ, signFactor (toF32 q) * f32 v = k * 2 ^ (e - 23))
      ∨ (-126 < e ∧ |signFactor (toF32 q) * f32 v| < 2 ^ e) := by
    rw [abs_mul, abs_signFactor, one_mul]
    refine (f32_multiple_or_lt hv he).imp_left fun ⟨k, hk⟩ => ?_
    rcases signFactor_cases (toF32 q) with h | h
    · exact ⟨k, by rw [h, hk, one_mul]⟩
    · exact ⟨-k, by rw [h, hk]; push_cast; ring⟩
  have hnear := hm.nearest hlow hv'
  rw [abs_sub_of_sign hsign, abs_sub_of_sign hsign (f32 v), hval, hpar, signFactor_mul_signFactor_mul]
  refine ⟨hnear.1, fun hne => hnear.2 fun heq => hne ?_⟩
  rw [← heq, signFactor_mul_signFactor_mul]

/-- Settles O40: below the overflow range the magnitude is rounded to a multiple of the unit of its
binade, and every finite value is a multiple of that unit or lies below the binade. -/
theorem toF32RoundsToNearestEven : Obligations.ToF32RoundsToNearestEven := by
  intro q hmax
  by_cases hq : q = 0
  · subst hq
    exact isToF32_zero
  obtain ⟨-, -, -, -, -, hfin, hsign, -, -⟩ := toF32_spec hq hmax
  refine ⟨hfin, fun v hv => ?_, fun v hv hne heq => ?_, hsign.trans ?_⟩
  · exact_mod_cast (toF32_nearest hq hmax hv).1
  · exact (toF32_nearest hq hmax hv).2 hne (by exact_mod_cast heq)
  · exact_mod_cast Iff.rfl

/-- Settles O41: the nearest word to a value a word has is of that value (O40), and value and sign fix a
word but for -0.0. -/
theorem toF32OfF32IsTheWord : Obligations.ToF32OfF32IsTheWord := by
  intro w hw hneg
  obtain ⟨hfin, hnear, -, hsign⟩ := toF32RoundsToNearestEven (f32 w) (abs_f32_le_largest hw)
  have hval : f32 (toF32 (f32 w)) = f32 w := by
    have h := hnear w hw
    rw [sub_self, abs_zero, abs_nonpos_iff, sub_eq_zero] at h
    exact_mod_cast h.symm
  refine word_eq_of_f32_eq hfin hw (Bool.eq_iff_iff.mpr ?_) hval
  rw [hsign, signBit_iff_f32_neg hw hneg]
  exact_mod_cast Iff.rfl

end Sys2Proof.Machine

/-! PROOFS. Exact numbers (log entry 5): the value of a sum of terms under each operation, and the
soundness of the test for 0. -/

namespace Sys2Proof.Machine

/-! ### Fractional parts and turns -/

theorem fractRat_eq (q : Rat) : fractRat q = Int.fract q := rfl

theorem fractRat_mem (q : Rat) : 0 ≤ fractRat q ∧ fractRat q < 1 :=
  ⟨Int.fract_nonneg q, Int.fract_lt_one q⟩

/-- e(θ) = cos 2πθ + i · sin 2πθ. -/
noncomputable def turnExp (θ : Rat) : ℂ := Complex.exp (2 * Real.pi * Complex.I * (θ : ℂ))

theorem turnExp_add (θ φ : Rat) : turnExp (θ + φ) = turnExp θ * turnExp φ := by
  rw [turnExp, Rat.cast_add, mul_add, Complex.exp_add]
  rfl

@[simp] theorem turnExp_intCast (k : ℤ) : turnExp k = 1 := by
  rw [turnExp, Rat.cast_intCast, mul_comm, Complex.exp_int_mul_two_pi_mul_I]

@[simp] theorem turnExp_fractRat (θ : Rat) : turnExp (fractRat θ) = turnExp θ := by
  conv_rhs => rw [← Int.fract_add_floor θ, turnExp_add, turnExp_intCast, mul_one]
  rfl

theorem turnExp_natCast_mul (j : Nat) (θ : Rat) : turnExp (j * θ) = turnExp θ ^ j := by
  rw [turnExp, turnExp, ← Complex.exp_nat_mul]
  push_cast
  ring_nf

/-! ### The value of a sum of terms (00_scope.md R7; log entry 5) -/

theorem Term.value_eq (t : Term) :
    t.value = (t.coef : ℂ) * (((2 : ℝ) ^ (t.two : ℝ) : ℝ) : ℂ) * turnExp t.turn := rfl

@[simp] theorem Exact.value_nil : Exact.value [] = 0 := rfl

@[simp] theorem Exact.value_cons (t : Term) (x : Exact) :
    Exact.value (t :: x) = t.value + Exact.value x := by simp [Exact.value]

@[simp] theorem Term.value_coef_mul (t : Term) (q : Rat) :
    Term.value { t with coef := t.coef * q } = t.value * q := by
  simp only [Term.value_eq]
  push_cast
  ring

/-- Two terms with the same exponents add up by their coefficients. -/
theorem Term.value_add_of_alike {t u : Term} (h : u.two = t.two ∧ u.turn = t.turn) :
    Term.value { u with coef := u.coef + t.coef } = t.value + u.value := by
  simp only [Term.value_eq, h.1, h.2]
  push_cast
  ring

@[simp] theorem Exact.value_insert (t : Term) (x : Exact) :
    Exact.value (Exact.insert t x) = t.value + x.value := by
  induction x with
  | nil =>
    unfold Exact.insert
    split
    · next h => simp [Term.value_eq, h]
    · simp
  | cons u x ih =>
    unfold Exact.insert
    split
    · next h =>
      have hsum := Term.value_add_of_alike h
      split
      · next h0 =>
        rw [Exact.value_cons, ← add_assoc, ← hsum, h0]
        simp [Term.value_eq]
      · rw [Exact.value_cons, Exact.value_cons, hsum, add_assoc]
    · rw [Exact.value_cons, Exact.value_cons, ih, add_left_comm]

/-- Terms inserted one after another, each made from an entry of a list. -/
theorem Exact.value_foldr_insert {α : Type} (f : α → Term) (l : List α) (x : Exact) :
    Exact.value (l.foldr (fun a => Exact.insert (f a)) x)
      = (l.map fun a => (f a).value).sum + x.value := by
  induction l with
  | nil => simp
  | cons a l ih => simp [ih, add_assoc]

@[simp] theorem Exact.value_rational (q : Rat) : (Exact.rational q).value = q := by
  simp [Exact.rational, Term.value_eq, turnExp]

@[simp] theorem Exact.value_add (x y : Exact) : (x.add y).value = x.value + y.value := by
  rw [add_comm]
  exact Exact.value_foldr_insert id y x

@[simp] theorem Exact.value_scale (x : Exact) (q : Rat) : (x.scale q).value = x.value * q := by
  rw [Exact.scale, Exact.value_foldr_insert]
  simp only [Term.value_coef_mul, Exact.value_nil, add_zero]
  exact List.sum_map_mul_right ..

@[simp] theorem Exact.value_sub (x y : Exact) : (x.sub y).value = x.value - y.value := by
  simp [Exact.sub, sub_eq_add_neg]

theorem pow2_eq (k : ℤ) : pow2 k = (2 : Rat) ^ k := by
  unfold pow2
  split
  · next h => simp [two_zpow_of_nonneg h, Rat.mkRat_eq_div]
  · next h => simp [two_zpow_of_neg h, Rat.mkRat_eq_div]

/-- Taking the whole part of an exponent of 2 into a factor. -/
theorem pow2_mul_rpow_fractRat (a : Rat) :
    ((pow2 a.floor : Rat) : ℝ) * (2 : ℝ) ^ ((fractRat a : Rat) : ℝ) = (2 : ℝ) ^ (a : ℝ) := by
  have ha : (a : ℝ) = ((a.floor : ℤ) : ℝ) + ((fractRat a : Rat) : ℝ) := by
    unfold fractRat
    push_cast
    ring
  rw [ha, Real.rpow_add two_pos, Real.rpow_intCast, pow2_eq]
  push_cast
  rfl

@[simp] theorem Term.value_reduced (c a θ : Rat) :
    (Term.reduced c a θ).value = (c : ℂ) * (((2 : ℝ) ^ (a : ℝ) : ℝ) : ℂ) * turnExp θ := by
  simp only [Term.value_eq, Term.reduced, turnExp_fractRat]
  rw [← pow2_mul_rpow_fractRat a]
  push_cast
  ring

@[simp] theorem Term.value_mul (t u : Term) : (t.mul u).value = t.value * u.value := by
  rw [Term.mul, Term.value_reduced, turnExp_add, Term.value_eq, Term.value_eq, Rat.cast_add,
    Real.rpow_add two_pos]
  push_cast
  ring

@[simp] theorem Exact.value_mul (x y : Exact) : (x.mul y).value = x.value * y.value := by
  unfold Exact.mul
  induction x with
  | nil => simp
  | cons t x ih =>
    rw [List.foldr_cons, Exact.value_foldr_insert, ih, Exact.value_cons, add_mul]
    simp only [Term.value_mul]
    rw [List.sum_map_mul_left]
    rfl

@[simp] theorem Exact.value_exp2 (x : Rat) : (Exact.exp2 x).value = (((2 : ℝ) ^ (x : ℝ) : ℝ) : ℂ) := by
  simp [Exact.exp2, turnExp]

@[simp] theorem Exact.value_sinTurns (φ : Rat) :
    (Exact.sinTurns φ).value = ((Real.sin (2 * Real.pi * (φ : ℝ)) : ℝ) : ℂ) := by
  have h : turnExp (φ - mkRat 1 4) + turnExp (mkRat 1 4 - φ)
      = 2 * Complex.cos (2 * Real.pi * φ - Real.pi / 2) := by
    rw [Complex.two_cos, turnExp, turnExp, Rat.mkRat_eq_div]
    push_cast
    congr 2 <;> ring
  have h2 : ((mkRat 1 2 : Rat) : ℂ) = 1 / 2 := by
    rw [Rat.mkRat_eq_div]
    push_cast
    rfl
  simp only [Exact.sinTurns, Exact.value_insert, Exact.value_nil, Term.value_reduced, Rat.cast_zero,
    Real.rpow_zero, Complex.ofReal_one, mul_one, add_zero]
  rw [← mul_add, h, h2, Complex.cos_sub_pi_div_two]
  push_cast
  ring

/-! ### Sums by groups -/

theorem nodup_eraseDups {α : Type} [DecidableEq α] (l : List α) : l.eraseDups.Nodup := by
  induction hn : l.length using Nat.strong_induction_on generalizing l with
  | _ n ih =>
    cases l with
    | nil => simp
    | cons a l =>
      rw [List.eraseDups_cons, List.nodup_cons, List.mem_eraseDups]
      refine ⟨by simp, ih _ ?_ _ rfl⟩
      have := List.length_filter_le (fun b => !b == a) l
      rw [List.length_cons] at hn
      omega

/-- A sum over a list, by the values of a function on its entries. -/
theorem sum_map_eq_sum_groups {α β : Type} [DecidableEq β] (f : α → β) (g : α → ℂ) {K : List β}
    (hK : K.Nodup) {l : List α} (hl : ∀ a ∈ l, f a ∈ K) :
    (l.map g).sum = (K.map fun b => ((l.filter (f · = b)).map g).sum).sum := by
  induction l with
  | nil => simp
  | cons a l ih =>
    have hgroup (b : β) : (((a :: l).filter (f · = b)).map g).sum
        = (if b = f a then g a else 0) + ((l.filter (f · = b)).map g).sum := by
      by_cases h : b = f a
      · simp [h]
      · simp [h, Ne.symm h]
    simp only [hgroup]
    rw [List.sum_map_add, ← ih fun b hb => hl b (List.mem_cons_of_mem a hb), List.sum_map_ite_eq,
      List.count_eq_one_of_mem hK (hl a List.mem_cons_self)]
    simp

theorem sum_map_eq_zero_of_groups {α β : Type} [DecidableEq β] (f : α → β) (g : α → ℂ) (l : List α)
    (h : ∀ a ∈ l, ((l.filter (f · = f a)).map g).sum = 0) : (l.map g).sum = 0 := by
  rw [sum_map_eq_sum_groups f g (List.nodup_dedup (l.map f)) fun a ha =>
    List.mem_dedup.mpr (List.mem_map_of_mem ha)]
  refine List.sum_eq_zero fun y hy => ?_
  obtain ⟨b, hb, rfl⟩ := List.mem_map.mp hy
  obtain ⟨a, ha, rfl⟩ := List.mem_map.mp (List.mem_dedup.mp hb)
  exact h a ha

/-! ### Sums of roots of unity -/

/-- The q numbers of [0, 1) whose q-fold has one fractional part are equally spaced on the circle, so
their roots of unity add up to 0. -/
theorem sum_turnExp_eq_zero {q : Nat} (hq : 2 ≤ q) {L : List Rat} (hnd : L.Nodup)
    (hlen : L.length = q) (hmem : ∀ B ∈ L, 0 ≤ B ∧ B < 1) {c : Rat}
    (hc : ∀ B ∈ L, fractRat (q * B) = c) : (L.map turnExp).sum = 0 := by
  have hq0 : (0 : Rat) < q := by exact_mod_cast (by omega : 0 < q)
  have hform : ∀ B ∈ L, B = c / q + (⌊q * B⌋₊ : Rat) * (1 / q) ∧ ⌊q * B⌋₊ < q := by
    intro B hB
    have hnn : 0 ≤ q * B := mul_nonneg hq0.le (hmem B hB).1
    have hfloor : ((⌊q * B⌋ : ℤ) : Rat) = (⌊q * B⌋₊ : Rat) :=
      (natCast_floor_eq_intCast_floor hnn).symm
    have hfract : q * B = c + ⌊q * B⌋ := by
      rw [← hc B hB, fractRat_eq, Int.fract_add_floor]
    refine ⟨?_, (Nat.floor_lt hnn).mpr (mul_lt_of_lt_one_right hq0 (hmem B hB).2)⟩
    rw [← hfloor, ← mul_one_div c, ← add_mul, ← hfract]
    field_simp
  have hinj : (L.map fun B => ⌊(q : Rat) * B⌋₊).Nodup := hnd.map_on fun B hB C hC h => by
    rw [(hform B hB).1, (hform C hC).1, h]
  have hrange : (L.map fun B => ⌊(q : Rat) * B⌋₊).toFinset = Finset.range q := by
    refine Finset.eq_of_subset_of_card_le (fun j hj => ?_) ?_
    · obtain ⟨B, hB, rfl⟩ := List.mem_map.mp (List.mem_toFinset.mp hj)
      exact Finset.mem_range.mpr (hform B hB).2
    · rw [List.toFinset_card_of_nodup hinj, List.length_map, hlen, Finset.card_range]
  have hroot : turnExp (1 / q) = Complex.exp (2 * Real.pi * Complex.I / q) := by
    rw [turnExp]
    push_cast
    ring_nf
  calc (L.map turnExp).sum
      = (L.map fun B => turnExp (c / q) * turnExp (1 / q) ^ ⌊(q : Rat) * B⌋₊).sum := by
        congr 1
        refine List.map_congr_left fun B hB => ?_
        conv_lhs => rw [(hform B hB).1, turnExp_add, turnExp_natCast_mul]
    _ = turnExp (c / q) * ((L.map fun B => ⌊(q : Rat) * B⌋₊).map fun j => turnExp (1 / q) ^ j).sum := by
        rw [List.sum_map_mul_left, List.map_map]
        rfl
    _ = turnExp (c / q) * ∑ j ∈ Finset.range q, turnExp (1 / q) ^ j := by
        rw [← hrange, List.sum_toFinset _ hinj]
    _ = 0 := by
        rw [hroot, (Complex.isPrimitiveRoot_exp q (by omega)).geom_sum_eq_zero (by omega), mul_zero]

/-- Σ c · e(θ) over the pairs (c, θ), the sum `vanishes` tests. -/
noncomputable def pairSum (l : List (Rat × Rat)) : ℂ := (l.map fun r => (r.1 : ℂ) * turnExp r.2).sum

theorem pairSum_append (l m : List (Rat × Rat)) : pairSum (l ++ m) = pairSum l + pairSum m := by
  simp [pairSum]

theorem pairSum_neg (l : List (Rat × Rat)) : pairSum (l.map fun r => (-r.1, r.2)) = -pairSum l := by
  induction l with
  | nil => simp [pairSum]
  | cons r l ih =>
    simp only [pairSum, List.map_cons, List.sum_cons] at ih ⊢
    rw [ih]
    push_cast
    ring

/-! ### The test for 0 is sound -/

/-- The pairs with the q-parts of their turns, as `vanishes` lists them. -/
def qTagged (q : Nat) (l : List (Rat × Rat)) : List (Rat × (Rat × Rat)) :=
  l.map fun r => (primePart q r.2, r)

/-- The q-parts A that occur. -/
def qParts (q : Nat) (l : List (Rat × Rat)) : List Rat := ((qTagged q l).map (·.1)).eraseDups

/-- S_A: the pairs with the q-part A, with A taken out of their turns. -/
def qSumAt (q : Nat) (l : List (Rat × Rat)) (A : Rat) : List (Rat × Rat) :=
  ((qTagged q l).filter (·.1 = A)).map fun r => (r.2.1, fractRat (r.2.2 - A))

/-- The q-parts that differ from A by multiples of 1/q. -/
def qAlike (q : Nat) (l : List (Rat × Rat)) (A : Rat) : List Rat :=
  (qParts q l).filter fun B => fractRat ((q : Rat) * B) == fractRat ((q : Rat) * A)

theorem vanishes_cons (q : Nat) (qs : List Nat) (l : List (Rat × Rat)) :
    vanishes (q :: qs) l
      = (qParts q l).all fun A =>
          if (qAlike q l A).length = q then
            A == (qAlike q l A).headD A
              || vanishes qs (qSumAt q l A
                  ++ (qSumAt q l ((qAlike q l A).headD A)).map fun r => (-r.1, r.2))
          else vanishes qs (qSumAt q l A) := rfl

theorem primePart_mem (q : Nat) (θ : Rat) : 0 ≤ primePart q θ ∧ primePart q θ < 1 := by
  unfold primePart
  dsimp only
  split
  · exact ⟨le_rfl, zero_lt_one⟩
  · exact fractRat_mem _

theorem qParts_mem {q : Nat} {l : List (Rat × Rat)} {A : Rat} (h : A ∈ qParts q l) : 0 ≤ A ∧ A < 1 := by
  rw [qParts, List.mem_eraseDups, qTagged, List.map_map] at h
  obtain ⟨r, -, rfl⟩ := List.mem_map.mp h
  exact primePart_mem q r.2

/-- The sum is Σ e(A) · S_A over the q-parts A. -/
theorem pairSum_eq_sum_qParts (q : Nat) (l : List (Rat × Rat)) :
    pairSum l = ((qParts q l).map fun A => turnExp A * pairSum (qSumAt q l A)).sum := by
  have htagged : pairSum l = ((qTagged q l).map fun r => (r.2.1 : ℂ) * turnExp r.2.2).sum := by
    rw [qTagged, List.map_map]
    rfl
  rw [htagged, sum_map_eq_sum_groups (·.1) _ (nodup_eraseDups _) fun r hr =>
    List.mem_eraseDups.mpr (List.mem_map_of_mem hr)]
  congr 1
  refine List.map_congr_left fun A _ => ?_
  rw [pairSum, qSumAt, List.map_map, ← List.sum_map_mul_left]
  congr 1
  refine List.map_congr_left fun r _ => ?_
  have hturn : turnExp r.2.2 = turnExp A * turnExp (r.2.2 - A) := by
    rw [← turnExp_add, add_sub_cancel]
  simp only [Function.comp_apply, turnExp_fractRat]
  rw [hturn]
  ring

/-- A class of q-parts gives 0 where all q of them are there with one sum S, or each sum is 0. -/
theorem sum_qAlike_eq_zero {q : Nat} (hq : 2 ≤ q) {l : List (Rat × Rat)} {A : Rat}
    (h : (∃ S : ℂ, (qAlike q l A).length = q ∧ ∀ B ∈ qAlike q l A, pairSum (qSumAt q l B) = S)
      ∨ ∀ B ∈ qAlike q l A, pairSum (qSumAt q l B) = 0) :
    ((qAlike q l A).map fun B => turnExp B * pairSum (qSumAt q l B)).sum = 0 := by
  rcases h with ⟨S, hlen, hS⟩ | h0
  · have hroots : ((qAlike q l A).map turnExp).sum = 0 := by
      refine sum_turnExp_eq_zero hq ((nodup_eraseDups _).filter _) hlen
        (fun B hB => qParts_mem (List.mem_filter.mp hB).1) (c := fractRat (q * A)) fun B hB => ?_
      exact eq_of_beq (List.mem_filter.mp hB).2
    rw [List.map_congr_left fun B hB => by rw [hS B hB], List.sum_map_mul_right, hroots, zero_mul]
  · refine List.sum_eq_zero fun y hy => ?_
    obtain ⟨B, hB, rfl⟩ := List.mem_map.mp hy
    rw [h0 B hB, mul_zero]

/-- The class of a q-part is that of each of its members. -/
theorem qAlike_eq_of_mem {q : Nat} {l : List (Rat × Rat)} {A B : Rat} (h : B ∈ qAlike q l A) :
    B ∈ qParts q l ∧ qAlike q l B = qAlike q l A := by
  obtain ⟨hB, heq⟩ := List.mem_filter.mp h
  exact ⟨hB, by simp only [qAlike, eq_of_beq heq]⟩

/-- A sum of roots of unity that the test shows to be 0 is 0, by induction on the primes. -/
theorem pairSum_eq_zero_of_vanishes (qs : List Nat) (hqs : ∀ q ∈ qs, 2 ≤ q) (l : List (Rat × Rat))
    (h : vanishes qs l = true) : pairSum l = 0 := by
  induction qs generalizing l with
  | nil =>
    refine sum_map_eq_zero_of_groups (·.2) _ l fun r hr => ?_
    have hr0 := List.all_eq_true.mp h r hr
    have hgroup : ((l.filter (·.2 = r.2)).map fun s => (s.1 : ℂ) * turnExp s.2)
        = (l.filter (·.2 = r.2)).map fun s => ((s.1 : Rat) : ℂ) * turnExp r.2 :=
      List.map_congr_left fun s hs => by rw [of_decide_eq_true (List.mem_filter.mp hs).2]
    have hcast : ((l.filter (·.2 = r.2)).map fun s => ((s.1 : Rat) : ℂ)).sum
        = ((((l.filter (·.2 = r.2)).map (·.1)).sum : Rat) : ℂ) := by
      rw [← Rat.coe_castHom, map_list_sum, List.map_map]
      rfl
    rw [hgroup, List.sum_map_mul_right, hcast, eq_of_beq hr0, Rat.cast_zero, zero_mul]
  | cons q qs ih =>
    have ih' := ih fun p hp => hqs p (List.mem_cons_of_mem q hp)
    rw [vanishes_cons, List.all_eq_true] at h
    rw [pairSum_eq_sum_qParts q l]
    refine sum_map_eq_zero_of_groups (fun A => fractRat ((q : Rat) * A)) _ _ fun A hA => ?_
    have hfilter : (qParts q l).filter (fun B => fractRat ((q : Rat) * B) = fractRat ((q : Rat) * A))
        = qAlike q l A :=
      List.filter_congr fun B _ => (beq_eq_decide _ _).symm
    rw [hfilter]
    refine sum_qAlike_eq_zero (hqs q List.mem_cons_self) ?_
    by_cases hlen : (qAlike q l A).length = q
    · refine .inl ⟨pairSum (qSumAt q l ((qAlike q l A).headD A)), hlen, fun B hB => ?_⟩
      obtain ⟨hBp, hBA⟩ := qAlike_eq_of_mem hB
      have hhead : (qAlike q l A).headD B = (qAlike q l A).headD A := by
        cases hl : qAlike q l A with
        | nil => simp [hl] at hB
        | cons C L => rfl
      have hv := h B hBp
      rw [hBA, if_pos hlen, Bool.or_eq_true, hhead] at hv
      rcases hv with hv | hv
      · rw [eq_of_beq hv]
      · have h0 := ih' _ hv
        rwa [pairSum_append, pairSum_neg, ← sub_eq_add_neg, sub_eq_zero] at h0
    · refine .inr fun B hB => ?_
      obtain ⟨hBp, hBA⟩ := qAlike_eq_of_mem hB
      have hv := h B hBp
      rw [hBA, if_neg hlen] at hv
      exact ih' _ hv

theorem two_le_of_mem_primesOf {l : List (Rat × Rat)} {q : Nat} (h : q ∈ primesOf l) : 2 ≤ q := by
  have hall : ∀ p ∈ primes, 2 ≤ p := by decide
  exact hall q (List.mem_filter.mp h).1

/-- An exact number that is shown to be 0 is 0. -/
theorem Exact.value_eq_zero_of_isZero {x : Exact} (h : x.isZero = true) : x.value = 0 := by
  refine sum_map_eq_zero_of_groups (·.two) Term.value x fun t ht => ?_
  have hv := List.all_eq_true.mp h t.two (List.mem_eraseDups.mpr (List.mem_map_of_mem ht))
  have hsum := pairSum_eq_zero_of_vanishes _ (fun _ => two_le_of_mem_primesOf) _ hv
  have hgroup : ((x.filter (·.two = t.two)).map Term.value)
      = (x.filter (·.two = t.two)).map fun u =>
          (((2 : ℝ) ^ (t.two : ℝ) : ℝ) : ℂ) * ((u.coef : ℂ) * turnExp u.turn) :=
    List.map_congr_left fun u hu => by
      rw [Term.value_eq, of_decide_eq_true (List.mem_filter.mp hu).2]
      ring
  rw [pairSum, List.map_map] at hsum
  rw [hgroup, List.sum_map_mul_left]
  exact mul_eq_zero_of_right _ hsum

end Sys2Proof.Machine

/-! PROOFS. The enclosures of π, sin, ln 2 and 2^x hold the exact reals, at every precision (log entry
5). -/

namespace Sys2Proof.Machine

/-! ### Rounding to a multiple of 2^-p -/

theorem roundDown_eq (p : Nat) (q : Rat) : roundDown p q = (⌊q * 2 ^ p⌋ : ℤ) / 2 ^ p := by
  have hq : q * 2 ^ p = ((q.num * 2 ^ p : ℤ) : Rat) / (q.den : Rat) := by
    conv_lhs => rw [← Rat.num_div_den q]
    push_cast
    ring
  rw [roundDown, Rat.mkRat_eq_div, hq, Rat.floor_intCast_div_natCast]
  push_cast
  rfl

theorem roundUp_eq (p : Nat) (q : Rat) : roundUp p q = -roundDown p (-q) := by
  simp only [roundUp, roundDown, Rat.mkRat_eq_div, Rat.num_neg_eq_neg_num, Rat.den_neg_eq_den]
  push_cast
  ring

theorem roundDown_le (p : Nat) (q : Rat) : roundDown p q ≤ q := by
  rw [roundDown_eq, div_le_iff₀ (by positivity)]
  exact Int.floor_le _

theorem le_roundUp (p : Nat) (q : Rat) : q ≤ roundUp p q := by
  rw [roundUp_eq]
  exact le_neg_of_le_neg (roundDown_le p (-q))

/-- A whole number is a multiple of 2^-p. -/
theorem intCast_le_roundDown (p : Nat) {k : ℤ} {q : Rat} (h : (k : Rat) ≤ q) : k ≤ roundDown p q := by
  rw [roundDown_eq, le_div_iff₀ (by positivity)]
  have : k * 2 ^ p ≤ ⌊q * 2 ^ p⌋ := Int.le_floor.mpr (by push_cast; gcongr)
  exact_mod_cast this

theorem roundDown_nonneg (p : Nat) {q : Rat} (h : 0 ≤ q) : 0 ≤ roundDown p q := by
  exact_mod_cast intCast_le_roundDown p (k := 0) (by exact_mod_cast h)

theorem roundUp_le_one (p : Nat) {q : Rat} (h : q ≤ 1) : roundUp p q ≤ 1 := by
  have := intCast_le_roundDown p (k := -1) (q := -q) (by push_cast; linarith)
  rw [roundUp_eq]
  push_cast at this
  linarith

theorem point_encloses (q : Rat) : (Ival.point q).encloses q := ⟨le_rfl, le_rfl⟩

/-- The product of an enclosed real with a number from 0 up, rounded outwards. -/
theorem rounded_mul_mem (p : Nat) {i : Ival} {c : ℝ} (h : i.encloses c) {r : Rat} (hr : 0 ≤ r) :
    ((roundDown p (i.lo * r) : Rat) : ℝ) ≤ c * r ∧ c * r ≤ ((roundUp p (i.hi * r) : Rat) : ℝ) := by
  have hr' : (0 : ℝ) ≤ r := by exact_mod_cast hr
  constructor
  · calc ((roundDown p (i.lo * r) : Rat) : ℝ) ≤ (i.lo : ℝ) * r := by exact_mod_cast roundDown_le p _
      _ ≤ c * r := mul_le_mul_of_nonneg_right h.1 hr'
  · calc c * r ≤ (i.hi : ℝ) * r := mul_le_mul_of_nonneg_right h.2 hr'
      _ ≤ ((roundUp p (i.hi * r) : Rat) : ℝ) := by exact_mod_cast le_roundUp p _

theorem cast_mkRat_one_two : ((mkRat 1 2 : Rat) : ℝ) = 1 / 2 := by
  rw [Rat.mkRat_eq_div]
  push_cast
  rfl

/-! ### Alternating series -/

/-- An even number of terms of an alternating series of falling terms falls short, an odd number
overshoots. -/
theorem alternating_bounds {f : Nat → ℝ} {l : ℝ} (hsum : HasSum (fun n => (-1) ^ n * f n) l)
    (hf : Antitone f) (k : Nat) :
    ∑ i ∈ Finset.range (2 * k), (-1) ^ i * f i ≤ l
      ∧ l ≤ ∑ i ∈ Finset.range (2 * k + 1), (-1) ^ i * f i :=
  ⟨hf.alternating_series_le_tendsto hsum.tendsto_sum_nat k,
    hf.tendsto_le_alternating_series hsum.tendsto_sum_nat k⟩

theorem mkRat_sign (n d : Nat) : mkRat (if n % 2 = 0 then 1 else -1) d = (-1) ^ n / d := by
  rw [Rat.mkRat_eq_div]
  split
  · next h => rw [(Nat.even_iff.mpr h).neg_one_pow, Int.cast_one]
  · next h => rw [(Nat.odd_iff.mpr (by omega)).neg_one_pow, Int.cast_neg, Int.cast_one]

/-! ### π -/

theorem cast_arctanSum (m n : Nat) :
    ((arctanSum m n : Rat) : ℝ)
      = ∑ i ∈ Finset.range n, (-1) ^ i * ((m : ℝ)⁻¹ ^ (2 * i + 1) / ((2 * i + 1 : ℕ) : ℝ)) := by
  induction n with
  | zero => simp [arctanSum]
  | succ n ih =>
    rw [Finset.sum_range_succ, ← ih, arctanSum, mkRat_sign]
    push_cast
    rw [inv_pow, div_eq_mul_inv, div_eq_mul_inv, mul_inv]
    ring

theorem arctanSum_bounds {m : Nat} (hm : 2 ≤ m) (k : Nat) :
    ((arctanSum m (2 * k) : Rat) : ℝ) ≤ Real.arctan (m : ℝ)⁻¹
      ∧ Real.arctan (m : ℝ)⁻¹ ≤ ((arctanSum m (2 * k + 1) : Rat) : ℝ) := by
  have hm' : (1 : ℝ) < m := by exact_mod_cast hm
  have hx0 : (0 : ℝ) < (m : ℝ)⁻¹ := by positivity
  have hx1 : (m : ℝ)⁻¹ < 1 := inv_lt_one_of_one_lt₀ hm'
  have hsum := Real.hasSum_arctan (x := (m : ℝ)⁻¹) (by rwa [Real.norm_of_nonneg hx0.le])
  simp only [mul_div_assoc] at hsum
  rw [cast_arctanSum, cast_arctanSum]
  refine alternating_bounds hsum (antitone_nat_of_succ_le fun n => ?_) k
  have hpow : (m : ℝ)⁻¹ ^ (2 * (n + 1) + 1) ≤ (m : ℝ)⁻¹ ^ (2 * n + 1) :=
    pow_le_pow_of_le_one hx0.le hx1.le (by omega)
  gcongr
  omega

/-- By Machin's formula. -/
theorem piEnclosure_encloses (p : Nat) : (piEnclosure p).encloses Real.pi := by
  have hmachin := Real.four_mul_arctan_inv_5_sub_arctan_inv_239
  have h5 := arctanSum_bounds (m := 5) (by omega) (p / 9 + 2)
  have h239 := arctanSum_bounds (m := 239) (by omega)
  have hlow := (h239 (p / 30 + 1)).2
  have hhigh := (h239 (p / 30 + 1)).1
  push_cast at h5 hlow hhigh
  constructor
  · simp only [piEnclosure]
    push_cast
    linarith [h5.1]
  · simp only [piEnclosure]
    push_cast
    linarith [h5.2]

/-- How much one more term changes the sum. -/
theorem abs_arctanSum_succ_sub_le {m : Nat} (hm : 1 ≤ m) {n e : Nat} (he : e ≤ 2 * n + 1) :
    |arctanSum m (n + 1) - arctanSum m n| ≤ 1 / m ^ e := by
  have hm' : (1 : Rat) ≤ m := by exact_mod_cast hm
  have hpow : (m : Rat) ^ e ≤ m ^ (2 * n + 1) := pow_le_pow_right₀ hm' he
  rw [arctanSum, add_sub_cancel_left, mkRat_sign, abs_div, abs_neg_one_pow, Nat.abs_cast]
  push_cast
  gcongr
  exact hpow.trans (le_mul_of_one_le_left (by positivity) (by linarith [show (0 : Rat) ≤ n by positivity]))

theorem piEnclosure_lo_nonneg (p : Nat) : 0 ≤ (piEnclosure p).lo := by
  have h5 : arctanSum 5 2 ≤ arctanSum 5 (2 * (p / 9 + 2) + 1) := by
    exact_mod_cast (arctanSum_bounds (m := 5) (by omega) 1).1.trans
      (arctanSum_bounds (by omega) (p / 9 + 2)).2
  have h239 : arctanSum 239 (2 * (p / 30 + 1)) ≤ arctanSum 239 1 := by
    exact_mod_cast (arctanSum_bounds (m := 239) (by omega) (p / 30 + 1)).1.trans
      (arctanSum_bounds (by omega) 0).2
  have h5' := (abs_le.mp (abs_arctanSum_succ_sub_le (m := 5) (by omega)
    (n := 2 * (p / 9 + 2)) (e := 2) (by omega))).2
  have h239' := (abs_le.mp (abs_arctanSum_succ_sub_le (m := 239) (by omega)
    (n := 2 * (p / 30 + 1)) (e := 1) (by omega))).2
  have hfive : arctanSum 5 2 = 74 / 375 := by decide +kernel
  have htwo : arctanSum 239 1 = 1 / 239 := by decide +kernel
  rw [hfive] at h5
  rw [htwo] at h239
  push_cast at h5' h239'
  change 0 ≤ 16 * arctanSum 5 (2 * (p / 9 + 2)) - 4 * arctanSum 239 (2 * (p / 30 + 1) + 1)
  linarith

/-! ### sin (40_oscillator.md R106) -/

theorem fact_eq (n : Nat) : fact n = n.factorial := by
  induction n with
  | zero => rfl
  | succ n ih => rw [fact, ih, Nat.factorial_succ]

theorem cast_sinSum (z : Rat) (n : Nat) :
    ((sinSum z n : Rat) : ℝ)
      = ∑ i ∈ Finset.range n, (-1) ^ i * ((z : ℝ) ^ (2 * i + 1) / ((2 * i + 1).factorial : ℝ)) := by
  induction n with
  | zero => simp [sinSum]
  | succ n ih =>
    rw [Finset.sum_range_succ, ← ih, sinSum, mkRat_sign, fact_eq]
    push_cast
    ring

/-- Up to 2 the terms of the series of sin fall. -/
theorem sinSum_bounds {z : Rat} (h0 : 0 ≤ z) (h2 : z ≤ 2) (k : Nat) :
    ((sinSum z (2 * k) : Rat) : ℝ) ≤ Real.sin z
      ∧ Real.sin z ≤ ((sinSum z (2 * k + 1) : Rat) : ℝ) := by
  have h0' : (0 : ℝ) ≤ z := by exact_mod_cast h0
  have h2' : (z : ℝ) ≤ 2 := by exact_mod_cast h2
  have hsum := Real.hasSum_sin (z : ℝ)
  simp only [mul_div_assoc] at hsum
  rw [cast_sinSum, cast_sinSum]
  refine alternating_bounds hsum (antitone_nat_of_succ_le fun n => ?_) k
  have hfact : ((2 * (n + 1) + 1).factorial : ℝ)
      = (2 * n + 1 + 2) * ((2 * n + 1 + 1) * ((2 * n + 1).factorial : ℝ)) := by
    rw [show 2 * (n + 1) + 1 = 2 * n + 1 + 1 + 1 by ring, Nat.factorial_succ, Nat.factorial_succ]
    push_cast
    ring
  have hsq : (z : ℝ) ^ 2 ≤ (2 * n + 1 + 2) * (2 * n + 1 + 1) := by
    have : (0 : ℝ) ≤ n := Nat.cast_nonneg n
    nlinarith
  have hfpos : (0 : ℝ) < ((2 * n + 1).factorial : ℝ) := by positivity
  rw [div_le_div_iff₀ (by positivity) hfpos, hfact,
    show 2 * (n + 1) + 1 = 2 * n + 1 + 2 by ring, pow_add]
  calc (z : ℝ) ^ (2 * n + 1) * z ^ 2 * ((2 * n + 1).factorial : ℝ)
      ≤ z ^ (2 * n + 1) * ((2 * n + 1 + 2) * (2 * n + 1 + 1)) * ((2 * n + 1).factorial : ℝ) := by
        gcongr
    _ = _ := by ring

/-- Between a and b the sine, up to π/2, is at least that of a and exceeds it by at most b - a. -/
theorem sin_between {a z b : ℝ} (ha : 0 ≤ a) (haz : a ≤ z) (hzb : z ≤ b) (hz : z ≤ Real.pi / 2) :
    Real.sin a ≤ Real.sin z ∧ Real.sin z ≤ Real.sin a + (b - a) := by
  have habs := (abs_le.mp (Real.abs_sin_sub_sin_le z a)).2
  rw [abs_of_nonneg (sub_nonneg.mpr haz)] at habs
  exact ⟨Real.sin_le_sin_of_le_of_le_pi_div_two (by linarith [Real.pi_pos]) hz haz, by linarith⟩

/-- The series at a, rounded outwards, with b - a for the rest of the angle. -/
theorem sinSum_encloses_sin {a b : Rat} {z : ℝ} (ha : 0 ≤ a) (haz : a ≤ z) (hzb : z ≤ b)
    (hz : z ≤ Real.pi / 2) (p k : Nat) :
    (Ival.mk (max 0 (roundDown p (sinSum a (2 * k))))
      (min 1 (roundUp p (sinSum a (2 * k + 1) + (b - a))))).encloses (Real.sin z) := by
  have ha' : (0 : ℝ) ≤ a := by exact_mod_cast ha
  have ha2 : a ≤ 2 := by
    have : (a : ℝ) ≤ 2 := by linarith [Real.pi_le_four]
    exact_mod_cast this
  obtain ⟨hsa, hsz⟩ := sin_between ha' haz hzb hz
  obtain ⟨hs1, hs2⟩ := sinSum_bounds ha ha2 k
  have hdown : ((roundDown p (sinSum a (2 * k)) : Rat) : ℝ) ≤ (sinSum a (2 * k) : Rat) := by
    exact_mod_cast roundDown_le p _
  have hup : ((sinSum a (2 * k + 1) + (b - a) : Rat) : ℝ)
      ≤ (roundUp p (sinSum a (2 * k + 1) + (b - a)) : Rat) := by
    exact_mod_cast le_roundUp p _
  rw [Rat.cast_add, Rat.cast_sub] at hup
  constructor <;> push_cast
  · exact max_le (Real.sin_nonneg_of_nonneg_of_le_pi (ha'.trans haz) (by linarith [Real.pi_pos]))
      (by linarith)
  · exact le_min (Real.sin_le_one z) (by linarith)

theorem half_piEnclosure_encloses (p : Nat) :
    (Ival.mk ((piEnclosure p).lo * mkRat 1 2) ((piEnclosure p).hi * mkRat 1 2)).encloses
      (Real.pi / 2) := by
  obtain ⟨hlo, hhi⟩ := piEnclosure_encloses p
  constructor <;> push_cast <;> rw [cast_mkRat_one_two] <;> linarith

theorem quarterSin_encloses (p : Nat) {r : Rat} (h0 : 0 ≤ r) (h1 : r ≤ 1) :
    (quarterSin p r).encloses (Real.sin (Real.pi / 2 * r)) := by
  have h1' : (r : ℝ) ≤ 1 := by exact_mod_cast h1
  unfold quarterSin
  split_ifs with hr0 hr1 hr3
  · rw [hr0]
    simpa using point_encloses 0
  · rw [hr1]
    simpa using point_encloses 1
  · have hsin : Real.sin (Real.pi / 2 * (mkRat 1 3 : Rat)) = ((mkRat 1 2 : Rat) : ℝ) := by
      rw [cast_mkRat_one_two, Rat.mkRat_eq_div]
      push_cast
      rw [show Real.pi / 2 * (1 / 3) = Real.pi / 6 by ring, Real.sin_pi_div_six]
    rw [hr3, hsin]
    exact point_encloses _
  · obtain ⟨haz, hzb⟩ := rounded_mul_mem p (half_piEnclosure_encloses p) h0
    have hlo0 : 0 ≤ (piEnclosure p).lo * mkRat 1 2 * r :=
      mul_nonneg (mul_nonneg (piEnclosure_lo_nonneg p) (by decide)) h0
    exact sinSum_encloses_sin (roundDown_nonneg p hlo0) haz hzb
      (mul_le_of_le_one_right (by positivity) h1') p _

/-- The sine after a whole number of quarter turns. -/
theorem sin_add_quarters (x : ℝ) (k : ℤ) :
    Real.sin (x + Real.pi / 2 * k)
      = if k % 4 = 0 then Real.sin x
        else if k % 4 = 1 then Real.cos x
        else if k % 4 = 2 then -Real.sin x
        else -Real.cos x := by
  have hk : (k : ℝ) = ((k % 4 : ℤ) : ℝ) + 4 * ((k / 4 : ℤ) : ℝ) := by
    exact_mod_cast (Int.emod_add_mul_ediv k 4).symm
  have hturn : x + Real.pi / 2 * k
      = x + Real.pi / 2 * ((k % 4 : ℤ) : ℝ) + ((k / 4 : ℤ) : ℝ) * (2 * Real.pi) := by
    rw [hk]
    ring
  rw [hturn, Real.sin_add_int_mul_two_pi]
  split_ifs with h0 h1 h2
  · simp [h0]
  · simp [h1, Real.sin_add_pi_div_two]
  · rw [h2, show x + Real.pi / 2 * ((2 : ℤ) : ℝ) = x + Real.pi by push_cast; ring, Real.sin_add_pi]
  · rw [show k % 4 = 3 by omega,
      show x + Real.pi / 2 * ((3 : ℤ) : ℝ) = x + Real.pi / 2 + Real.pi by push_cast; ring,
      Real.sin_add_pi, Real.sin_add_pi_div_two]

theorem signedQuarter_eq (φ : Rat) :
    signedQuarter φ
      = if (4 * φ).floor % 4 = 0 then (fractRat (4 * φ), false)
        else if (4 * φ).floor % 4 = 1 then (1 - fractRat (4 * φ), false)
        else if (4 * φ).floor % 4 = 2 then (fractRat (4 * φ), true)
        else (1 - fractRat (4 * φ), true) := rfl

/-- sin(2πφ) by an angle of the first quarter and a sign. -/
theorem signedQuarter_spec (φ : Rat) :
    0 ≤ (signedQuarter φ).1 ∧ (signedQuarter φ).1 ≤ 1
      ∧ Real.sin (2 * Real.pi * φ)
        = (if (signedQuarter φ).2 = true then -1 else 1)
          * Real.sin (Real.pi / 2 * (signedQuarter φ).1) := by
  obtain ⟨hr0, hr1⟩ := fractRat_mem (4 * φ)
  have hangle : (2 * Real.pi * φ : ℝ)
      = Real.pi / 2 * (fractRat (4 * φ) : Rat) + Real.pi / 2 * (4 * φ).floor := by
    unfold fractRat
    push_cast
    ring
  have hcomp : Real.sin (Real.pi / 2 * ((1 - fractRat (4 * φ) : Rat) : ℝ))
      = Real.cos (Real.pi / 2 * (fractRat (4 * φ) : Rat)) := by
    rw [← Real.sin_pi_div_two_sub]
    push_cast
    ring_nf
  have hcomp0 : 0 ≤ 1 - fractRat (4 * φ) := sub_nonneg.mpr hr1.le
  have hcomp1 : 1 - fractRat (4 * φ) ≤ 1 := sub_le_self 1 hr0
  rw [hangle, sin_add_quarters, signedQuarter_eq]
  by_cases h0 : (4 * φ).floor % 4 = 0
  · rw [if_pos h0, if_pos h0]
    exact ⟨hr0, hr1.le, by simp⟩
  by_cases h1 : (4 * φ).floor % 4 = 1
  · rw [if_neg h0, if_pos h1, if_neg h0, if_pos h1]
    exact ⟨hcomp0, hcomp1, by rw [hcomp]; simp⟩
  by_cases h2 : (4 * φ).floor % 4 = 2
  · rw [if_neg h0, if_neg h1, if_pos h2, if_neg h0, if_neg h1, if_pos h2]
    exact ⟨hr0, hr1.le, by simp⟩
  · rw [if_neg h0, if_neg h1, if_neg h2, if_neg h0, if_neg h1, if_neg h2]
    exact ⟨hcomp0, hcomp1, by rw [hcomp]; simp⟩

theorem Ival.neg_encloses {i : Ival} {x : ℝ} (h : i.encloses x) : i.neg.encloses (-x) := by
  obtain ⟨hlo, hhi⟩ := h
  constructor
  · simpa [Ival.neg] using hhi
  · simpa [Ival.neg] using hlo

/-- The sine enclosure of an exact phase holds the sine, at every precision. -/
theorem sinPoint_encloses (p : Nat) (φ : Rat) :
    (sinPoint p φ).encloses (Real.sin (2 * Real.pi * (φ : ℝ))) := by
  obtain ⟨h0, h1, hsin⟩ := signedQuarter_spec φ
  have h := quarterSin_encloses p h0 h1
  rw [hsin]
  unfold sinPoint
  dsimp only
  split
  · rw [neg_one_mul]
    exact Ival.neg_encloses h
  · rw [one_mul]
    exact h

/-! ### 2^x (41_unison.md R134) -/

theorem ln2Sum_nonneg (n : Nat) : 0 ≤ ln2Sum n := by
  induction n with
  | zero => exact le_rfl
  | succ n ih =>
    rw [ln2Sum, Rat.mkRat_eq_div]
    positivity

theorem cast_ln2Sum (n : Nat) :
    ((ln2Sum n : Rat) : ℝ)
      = ∑ k ∈ Finset.range n, 2 * (1 / (2 * (k : ℝ) + 1)) * (1 / (2 * 1 + 1)) ^ (2 * k + 1) := by
  induction n with
  | zero => simp [ln2Sum]
  | succ n ih =>
    rw [Finset.sum_range_succ, ← ih, ln2Sum, Rat.mkRat_eq_div]
    push_cast
    rw [show (2 * 1 + 1 : ℝ) = 3 by norm_num, div_pow, one_pow]
    field_simp

theorem tendsto_ln2Sum :
    Filter.Tendsto (fun n => ((ln2Sum n : Rat) : ℝ)) Filter.atTop (nhds (Real.log 2)) := by
  have h := (Real.hasSum_log_one_add_inv (a := 1) one_pos).tendsto_sum_nat
  simp only [← cast_ln2Sum] at h
  rwa [show (1 : ℝ) + 1⁻¹ = 2 by norm_num] at h

theorem ln2Sum_le_log_two (n : Nat) : ((ln2Sum n : Rat) : ℝ) ≤ Real.log 2 := by
  refine Monotone.ge_of_tendsto (monotone_nat_of_le_succ fun n => ?_) tendsto_ln2Sum n
  rw [ln2Sum, Rat.mkRat_eq_div]
  push_cast
  have : (0 : ℝ) ≤ 2 / ((2 * n + 1) * 3 ^ (2 * n + 1)) := by positivity
  linarith

/-- With 9^-n for the terms left out the sums fall. -/
theorem log_two_le_ln2Sum_add (n : Nat) : Real.log 2 ≤ ((ln2Sum n + mkRat 1 (9 ^ n) : Rat) : ℝ) := by
  have hlim : Filter.Tendsto (fun n => ((ln2Sum n : Rat) : ℝ) + (1 / 9 : ℝ) ^ n) Filter.atTop
      (nhds (Real.log 2)) := by
    simpa using tendsto_ln2Sum.add
      (tendsto_pow_atTop_nhds_zero_of_lt_one (r := (1 / 9 : ℝ)) (by norm_num) (by norm_num))
  have hanti : Antitone fun n => ((ln2Sum n : Rat) : ℝ) + (1 / 9 : ℝ) ^ n := by
    refine antitone_nat_of_succ_le fun n => ?_
    have hpow : (3 : ℝ) ^ (2 * n + 1) = 3 * 9 ^ n := by
      rw [pow_succ, pow_mul, mul_comm]
      norm_num
    have hterm : (2 : ℝ) / ((2 * n + 1) * 3 ^ (2 * n + 1)) ≤ 2 / 3 * (1 / 9) ^ n := by
      rw [hpow, div_pow, one_pow, div_mul_div_comm, mul_one]
      exact div_le_div_of_nonneg_left two_pos.le (by positivity)
        (le_mul_of_one_le_left (by positivity) (by linarith [show (0 : ℝ) ≤ n by positivity]))
    have h9 : (1 / 9 : ℝ) ^ (n + 1) = (1 / 9) ^ n * (1 / 9) := pow_succ _ _
    rw [ln2Sum, Rat.mkRat_eq_div]
    push_cast
    linarith [show (0 : ℝ) ≤ (1 / 9) ^ n by positivity]
  have h := hanti.le_of_tendsto hlim n
  rw [Rat.mkRat_eq_div]
  push_cast
  rwa [div_pow, one_pow] at h

theorem ln2Enclosure_encloses (p : Nat) : (ln2Enclosure p).encloses (Real.log 2) :=
  ⟨ln2Sum_le_log_two _, log_two_le_ln2Sum_add _⟩

theorem ln2Enclosure_lo_nonneg (p : Nat) : 0 ≤ (ln2Enclosure p).lo := ln2Sum_nonneg _

theorem ln2Enclosure_hi_le_one (p : Nat) : (ln2Enclosure p).hi ≤ 1 := by
  have hsum : ((ln2Sum (p / 3 + 2) : Rat) : ℝ) ≤ ((7 / 10 : Rat) : ℝ) :=
    (ln2Sum_le_log_two _).trans (Real.log_two_lt_d9.le.trans (by norm_num))
  have hsum' : ln2Sum (p / 3 + 2) ≤ 7 / 10 := Rat.cast_le.mp hsum
  have hpow : mkRat 1 (9 ^ (p / 3 + 2)) ≤ 1 / 9 := by
    rw [Rat.mkRat_eq_div]
    push_cast
    gcongr
    exact le_self_pow₀ (by norm_num) (by omega)
  change ln2Sum (p / 3 + 2) + mkRat 1 (9 ^ (p / 3 + 2)) ≤ 1
  linarith

theorem cast_expSum (y : Rat) (n : Nat) :
    ((expSum y n : Rat) : ℝ) = ∑ i ∈ Finset.range n, (y : ℝ) ^ i / (i.factorial : ℝ) := by
  induction n with
  | zero => simp [expSum]
  | succ n ih =>
    rw [Finset.sum_range_succ, ← ih, expSum, Rat.mkRat_eq_div, fact_eq]
    push_cast
    ring

theorem Ival.scale_encloses {i : Ival} {x : ℝ} (h : i.encloses x) (q : Rat) :
    (i.scale q).encloses (x * q) := by
  obtain ⟨hlo, hhi⟩ := h
  unfold Ival.scale
  split
  · next hq =>
    have hq' : (0 : ℝ) ≤ q := by exact_mod_cast hq
    constructor <;> push_cast <;> gcongr
  · next hq =>
    have hq' : (q : ℝ) ≤ 0 := by exact_mod_cast (not_le.mp hq).le
    constructor
    · push_cast
      exact mul_le_mul_of_nonpos_right hhi hq'
    · push_cast
      exact mul_le_mul_of_nonpos_right hlo hq'

/-- 2^x = 2^⌊x⌋ · e^((x - ⌊x⌋) ln 2). -/
theorem two_rpow_eq (x : Rat) :
    (2 : ℝ) ^ (x : ℝ) = Real.exp (Real.log 2 * ((x - x.floor : Rat) : ℝ)) * (pow2 x.floor : Rat) := by
  rw [← pow2_mul_rpow_fractRat x, Real.rpow_def_of_pos two_pos, mul_comm]
  rfl

/-- The series at a and at b, with the rest of the latter, rounded outwards. -/
theorem expSum_encloses_exp {a b : Rat} {y : ℝ} (ha : 0 ≤ a) (hay : a ≤ y) (hyb : y ≤ b)
    (hb : b ≤ 1) (p : Nat) {n : Nat} (hn : 0 < n) :
    (Ival.mk (roundDown p (expSum a n))
      (roundUp p (expSum b n + b ^ n * mkRat (n + 1) (fact n * n)))).encloses (Real.exp y) := by
  have ha' : (0 : ℝ) ≤ a := by exact_mod_cast ha
  constructor
  · calc ((roundDown p (expSum a n) : Rat) : ℝ)
        ≤ ((expSum a n : Rat) : ℝ) := by exact_mod_cast roundDown_le p _
      _ ≤ Real.exp a := by
        rw [cast_expSum]
        exact Real.sum_le_exp_of_nonneg ha' n
      _ ≤ Real.exp y := Real.exp_le_exp.mpr hay
  · calc Real.exp y ≤ Real.exp b := Real.exp_le_exp.mpr hyb
      _ ≤ _ := Real.exp_bound' (ha'.trans (hay.trans hyb)) (by exact_mod_cast hb) hn
      _ = ((expSum b n + b ^ n * mkRat (n + 1) (fact n * n) : Rat) : ℝ) := by
        rw [Rat.mkRat_eq_div, fact_eq]
        push_cast [cast_expSum]
        ring
      _ ≤ _ := by exact_mod_cast le_roundUp p _

/-- The enclosure of 2^x holds it, at every precision. -/
theorem exp2Enclosure_encloses (p : Nat) (x : Rat) :
    (exp2Enclosure p x).encloses ((2 : ℝ) ^ (x : ℝ)) := by
  obtain ⟨hr0, hr1⟩ := fractRat_mem x
  rw [two_rpow_eq]
  unfold exp2Enclosure
  dsimp only
  split
  · next h =>
    rw [h]
    simpa using point_encloses (pow2 x.floor)
  · obtain ⟨hay, hyb⟩ := rounded_mul_mem p (ln2Enclosure_encloses p) hr0
    exact Ival.scale_encloses (expSum_encloses_exp
      (roundDown_nonneg p (mul_nonneg (ln2Enclosure_lo_nonneg p) hr0)) hay hyb
      (roundUp_le_one p (mul_le_one₀ (ln2Enclosure_hi_le_one p) hr0 hr1.le)) p (by omega)) _

end Sys2Proof.Machine

/-! PROOFS. The model's arithmetic tracks the exact reals (00_scope.md R7; log entry 5). -/

namespace Sys2Proof.Machine

/-! ### Every operation on enclosures holds the exact result (log entry 5) -/

theorem Ival.add_encloses {i j : Ival} {x y : ℝ} (hx : i.encloses x) (hy : j.encloses y) :
    (i.add j).encloses (x + y) := by
  obtain ⟨hx1, hx2⟩ := hx
  obtain ⟨hy1, hy2⟩ := hy
  constructor <;> simp only [Ival.add] <;> push_cast <;> linarith

theorem Ival.sub_encloses {i j : Ival} {x y : ℝ} (hx : i.encloses x) (hy : j.encloses y) :
    (i.sub j).encloses (x - y) := by
  obtain ⟨hx1, hx2⟩ := hx
  obtain ⟨hy1, hy2⟩ := hy
  constructor <;> simp only [Ival.sub] <;> push_cast <;> linarith

/-- A product with one factor between two bounds. -/
theorem mul_mem_of_mem {a b x : ℝ} (h : a ≤ x ∧ x ≤ b) (y : ℝ) :
    min (a * y) (b * y) ≤ x * y ∧ x * y ≤ max (a * y) (b * y) := by
  rcases le_total 0 y with hy | hy
  · exact ⟨min_le_of_left_le (mul_le_mul_of_nonneg_right h.1 hy),
      le_max_of_le_right (mul_le_mul_of_nonneg_right h.2 hy)⟩
  · exact ⟨min_le_of_right_le (mul_le_mul_of_nonpos_right h.2 hy),
      le_max_of_le_left (mul_le_mul_of_nonpos_right h.1 hy)⟩

theorem Ival.mul_encloses {i j : Ival} {x y : ℝ} (hx : i.encloses x) (hy : j.encloses y) :
    (i.mul j).encloses (x * y) := by
  have h := mul_mem_of_mem hx y
  have hlo := mul_mem_of_mem hy i.lo
  have hhi := mul_mem_of_mem hy i.hi
  simp only [mul_comm _ (i.lo : ℝ)] at hlo
  simp only [mul_comm _ (i.hi : ℝ)] at hhi
  constructor <;> simp only [Ival.mul] <;> push_cast
  · exact (min_le_min hlo.1 hhi.1).trans h.1
  · exact h.2.trans (max_le_max hlo.2 hhi.2)

theorem Ival.abs_encloses {i : Ival} {x : ℝ} (h : i.encloses x) : i.abs.encloses |x| := by
  obtain ⟨hlo, hhi⟩ := h
  unfold Ival.abs
  split_ifs with h0 h1
  · have h0' : (0 : ℝ) ≤ i.lo := by exact_mod_cast h0
    rw [abs_of_nonneg (h0'.trans hlo)]
    exact ⟨hlo, hhi⟩
  · have h1' : (i.hi : ℝ) ≤ 0 := by exact_mod_cast h1
    rw [abs_of_nonpos (hhi.trans h1')]
    exact Ival.neg_encloses ⟨hlo, hhi⟩
  · constructor
    · simp
    · push_cast
      exact abs_le'.mpr ⟨le_max_of_le_right hhi, le_max_of_le_left (neg_le_neg hlo)⟩

theorem Ival.clamp_encloses {i : Ival} {x : ℝ} (h : i.encloses x) (lo hi : Rat) :
    (i.clamp lo hi).encloses (min (max x lo) hi) := by
  constructor <;> simp only [Ival.clamp, clampRat] <;> push_cast
  · exact min_le_min_right _ (max_le_max_right _ h.1)
  · exact min_le_min_right _ (max_le_max_right _ h.2)

/-- Where both ends have one floor, every real between them has it. -/
theorem Ival.floor_eq {i : Ival} {x : ℝ} (h : i.encloses x) (hf : i.lo.floor = i.hi.floor) :
    ⌊x⌋ = i.lo.floor := by
  rw [Int.floor_eq_iff]
  constructor
  · exact le_trans (by exact_mod_cast Int.floor_le i.lo) h.1
  · rw [hf]
    exact lt_of_le_of_lt h.2 (by exact_mod_cast Int.lt_floor_add_one i.hi)

theorem Ival.phase_encloses {i : Ival} {x : ℝ} (h : i.encloses x) (τ : Rat) :
    (i.phase τ).encloses (Int.fract (x * τ)) := by
  have hs := Ival.scale_encloses h τ
  unfold Ival.phase
  dsimp only
  split
  · next hf =>
    rw [Int.fract, Ival.floor_eq hs hf]
    constructor <;> push_cast
    · exact sub_le_sub_right hs.1 _
    · rw [hf]
      exact sub_le_sub_right hs.2 _
  · constructor
    · simp
    · simpa using (Int.fract_lt_one (x * τ)).le

/-- An enclosure that lies on one side of 1/2 tells the choice of R104. -/
theorem Ival.lt_half {i : Ival} {x : ℝ} (h : i.encloses x) :
    (i.hi < mkRat 1 2 → x < 1 / 2) ∧ (mkRat 1 2 ≤ i.lo → ¬ x < 1 / 2) := by
  rw [← cast_mkRat_one_two, not_lt]
  exact ⟨fun hlt => h.2.trans_lt (by exact_mod_cast hlt), fun hle => le_trans (by exact_mod_cast hle) h.1⟩

theorem Ival.belowHalf_encloses {i j k : Ival} {φ a b : ℝ} (hφ : i.encloses φ) (ha : j.encloses a)
    (hb : k.encloses b) : (i.belowHalf j k).encloses (if φ < 1 / 2 then a else b) := by
  obtain ⟨hlt, hge⟩ := Ival.lt_half hφ
  unfold Ival.belowHalf
  split_ifs with h1 h2 h3 h4 h5
  · exact ha
  · exact absurd (hlt h1) h2
  · exact absurd h4 (hge h3)
  · exact hb
  · constructor <;> push_cast
    · exact min_le_of_left_le ha.1
    · exact le_max_of_le_left ha.2
  · constructor <;> push_cast
    · exact min_le_of_right_le hb.1
    · exact le_max_of_le_right hb.2

theorem Ival.eq_lo_of_lo_eq_hi {i : Ival} {x : ℝ} (h : i.encloses x) (he : i.lo = i.hi) : x = i.lo :=
  (h.2.trans_eq (by rw [he])).antisymm h.1

/-- From the middle of the enclosure the sine moves by at most 2π < 7 times the distance. -/
theorem Ival.sinTurns_encloses (p : Nat) {i : Ival} {φ : ℝ} (h : i.encloses φ) :
    (i.sinTurns p).encloses (Real.sin (2 * Real.pi * φ)) := by
  unfold Ival.sinTurns
  split
  · next he =>
    rw [Ival.eq_lo_of_lo_eq_hi h he]
    exact sinPoint_encloses p i.lo
  · obtain ⟨hs1, hs2⟩ := sinPoint_encloses p ((i.lo + i.hi) * mkRat 1 2)
    dsimp only
    generalize sinPoint p ((i.lo + i.hi) * mkRat 1 2) = s at *
    have hmid : |φ - (i.lo + i.hi) * (1 / 2)| ≤ (i.hi - i.lo) * (1 / 2) := by
      rw [abs_le]
      constructor <;> linarith [h.1, h.2]
    have hsin : |Real.sin (2 * Real.pi * φ) - Real.sin (2 * Real.pi * ((i.lo + i.hi) * (1 / 2)))|
        ≤ 7 * ((i.hi - i.lo) * (1 / 2)) := by
      refine (Real.abs_sin_sub_sin_le _ _).trans ?_
      rw [← mul_sub, abs_mul, abs_of_pos (by positivity)]
      exact mul_le_mul (by linarith [Real.pi_lt_d2]) hmid (abs_nonneg _) (by norm_num)
    obtain ⟨hd1, hd2⟩ := abs_le.mp hsin
    rw [Rat.cast_mul, Rat.cast_add, cast_mkRat_one_two] at hs1 hs2
    constructor <;> push_cast <;> rw [cast_mkRat_one_two]
    · exact max_le (Real.neg_one_le_sin _) (by linarith)
    · exact le_min (Real.sin_le_one _) (by linarith)

/-! ### Every tracked operation tracks the exact result -/

theorem Tracked.of_tracks {i : Ival} {e : Option Exact} {x : ℝ} (hi : i.encloses x)
    (he : ∀ a : Exact, e = some a → a.value = (x : ℂ)) : (Tracked.of i e).tracks x := by
  refine ⟨hi, fun a ha => ?_⟩
  unfold Tracked.of at ha
  split at ha
  · next hp =>
    obtain rfl := Option.some.inj ha
    rw [Exact.value_rational, Ival.eq_lo_of_lo_eq_hi hi hp]
    push_cast
    rfl
  · exact he a ha

theorem Tracked.of_none_tracks {i : Ival} {x : ℝ} (hi : i.encloses x) : (Tracked.of i none).tracks x :=
  Tracked.of_tracks hi fun _ h => nomatch h

theorem Tracked.point_tracks (q : Rat) : (Tracked.of (.point q) none).tracks q :=
  Tracked.of_none_tracks (point_encloses q)

theorem Tracked.map₂_tracks {f : Ival → Ival → Ival} {g : Exact → Exact → Exact} {x y : Tracked}
    {r s t : ℝ} (hx : x.tracks r) (hy : y.tracks s) (hf : (f x.ival y.ival).encloses t)
    (hg : ∀ a b : Exact, a.value = (r : ℂ) → b.value = (s : ℂ) → (g a b).value = (t : ℂ)) :
    (Tracked.map₂ f g x y).tracks t := by
  refine Tracked.of_tracks hf fun c hc => ?_
  cases ha : x.exact with
  | none => simp [ha] at hc
  | some a =>
    cases hb : y.exact with
    | none => simp [ha, hb] at hc
    | some b =>
      simp only [ha, hb, Option.some.injEq] at hc
      exact hc ▸ hg a b (hx.2 a ha) (hy.2 b hb)

theorem Tracked.scale_tracks {x : Tracked} {r : ℝ} (hx : x.tracks r) (q : Rat) :
    (x.scale q).tracks (r * q) := by
  refine Tracked.of_tracks (Ival.scale_encloses hx.1 q) fun a ha => ?_
  obtain ⟨b, hb, rfl⟩ := Option.map_eq_some_iff.mp ha
  rw [Exact.value_scale, hx.2 b hb]
  push_cast
  rfl

/-- A number that the test shows to be `c` is `c`. -/
theorem Tracked.eq_of_isZero {x : Tracked} {r : ℝ} (hx : x.tracks r) {c : Rat}
    (h : (x.exact.any fun e => (e.sub (.rational c)).isZero) = true) : r = c := by
  obtain ⟨e, he, hz⟩ := (Option.any_eq_true _ _).mp h
  have hval := Exact.value_eq_zero_of_isZero hz
  rw [Exact.value_sub, Exact.value_rational, hx.2 e he, sub_eq_zero] at hval
  exact_mod_cast hval

theorem Tracked.resolve_tracks {x : Tracked} {r : ℝ} (hx : x.tracks r) (c : Rat) :
    (x.resolve c).tracks r := by
  unfold Tracked.resolve
  split
  · next h =>
    obtain ⟨-, -, hz⟩ := h
    rw [Tracked.eq_of_isZero hx hz]
    exact Tracked.point_tracks c
  · exact hx

theorem Tracked.abs_tracks {x : Tracked} {r : ℝ} (hx : x.tracks r) : x.abs.tracks |r| := by
  have hx := Tracked.resolve_tracks hx 0
  unfold Tracked.abs
  dsimp only
  generalize x.resolve 0 = x at *
  split_ifs with h0 h1
  · have h0' : (0 : ℝ) ≤ x.ival.lo := by exact_mod_cast h0
    rw [abs_of_nonneg (h0'.trans hx.1.1)]
    exact hx
  · have h1' : (x.ival.hi : ℝ) ≤ 0 := by exact_mod_cast h1
    rw [abs_of_nonpos (hx.1.2.trans h1')]
    simpa using Tracked.scale_tracks hx (-1)
  · exact Tracked.of_none_tracks (Ival.abs_encloses hx.1)

theorem Tracked.clamp_tracks {x : Tracked} {r : ℝ} (hx : x.tracks r) (lo hi : Rat) :
    (x.clamp lo hi).tracks (min (max r lo) hi) := by
  have hx := Tracked.resolve_tracks (Tracked.resolve_tracks hx lo) hi
  unfold Tracked.clamp
  dsimp only
  generalize (x.resolve lo).resolve hi = x at *
  split
  · next h =>
    have hlo : (lo : ℝ) ≤ r := le_trans (by exact_mod_cast h.1) hx.1.1
    have hhi : r ≤ hi := hx.1.2.trans (by exact_mod_cast h.2)
    rw [max_eq_left hlo, min_eq_left hhi]
    exact hx
  · exact Tracked.of_none_tracks (Ival.clamp_encloses hx.1 lo hi)

theorem Tracked.phase_tracks {x : Tracked} {r : ℝ} (hx : x.tracks r) (τ : Rat) :
    (x.phase τ).tracks (Int.fract (r * τ)) := by
  have hs := Tracked.scale_tracks hx τ
  refine Tracked.of_tracks (Ival.phase_encloses hx.1 τ) fun a ha => ?_
  split at ha
  · next hf =>
    obtain ⟨b, hb, rfl⟩ := Option.map_eq_some_iff.mp ha
    rw [Exact.value_sub, Exact.value_rational, hs.2 b hb, Int.fract, Ival.floor_eq hs.1 hf]
    push_cast
    rfl
  · exact nomatch ha

theorem Tracked.belowHalf_tracks {x y z : Tracked} {φ a b : ℝ} (hφ : x.tracks φ) (ha : y.tracks a)
    (hb : z.tracks b) : (x.belowHalf y z).tracks (if φ < 1 / 2 then a else b) := by
  obtain ⟨hlt, hge⟩ := Ival.lt_half hφ.1
  unfold Tracked.belowHalf
  split
  · next h => rwa [if_pos (hlt h)]
  · split
    · next h => rwa [if_neg (hge h)]
    · exact Tracked.of_none_tracks (Ival.belowHalf_encloses hφ.1 ha.1 hb.1)

theorem keepIf_eq_some {keep : Bool} {e a : Exact} (h : keepIf keep e = some a) : e = a := by
  unfold keepIf at h
  split at h
  · exact Option.some.inj h
  · exact nomatch h

theorem Tracked.sinTurns_tracks (p : Nat) (keep : Bool) {x : Tracked} {φ : ℝ} (hx : x.tracks φ) :
    ((Numerics.tracked p keep).sinTurns x).tracks (Real.sin (2 * Real.pi * φ)) := by
  refine Tracked.of_tracks (Ival.sinTurns_encloses p hx.1) fun a ha => ?_
  split at ha
  · next he =>
    rw [← keepIf_eq_some ha, Exact.value_sinTurns, Ival.eq_lo_of_lo_eq_hi hx.1 he]
  · exact nomatch ha

theorem Tracked.exp2_tracks (p : Nat) (keep : Bool) (x : Rat) :
    ((Numerics.tracked p keep).exp2 x).tracks ((2 : ℝ) ^ (x : ℝ)) := by
  refine Tracked.of_tracks (exp2Enclosure_encloses p x) fun a ha => ?_
  rw [← keepIf_eq_some ha, Exact.value_exp2]

/-! ### The model's arithmetic (00_scope.md R7) -/

/-- The model's arithmetic tracks the exact reals, at every precision. -/
theorem tracked_refines_real (p : Nat) (keep : Bool) :
    (Numerics.tracked p keep).Refines Numerics.real Tracked.tracks where
  exact q := Tracked.point_tracks q
  add hx hy := Tracked.map₂_tracks hx hy (Ival.add_encloses hx.1 hy.1) fun a b ha hb => by
    rw [Exact.value_add, ha, hb, ← Complex.ofReal_add]
    rfl
  sub hx hy := Tracked.map₂_tracks hx hy (Ival.sub_encloses hx.1 hy.1) fun a b ha hb => by
    rw [Exact.value_sub, ha, hb, ← Complex.ofReal_sub]
    rfl
  mul hx hy := Tracked.map₂_tracks hx hy (Ival.mul_encloses hx.1 hy.1) fun a b ha hb => by
    rw [Exact.value_mul, ha, hb, ← Complex.ofReal_mul]
    rfl
  abs hx := Tracked.abs_tracks hx
  divide hx q := by
    have h := Tracked.scale_tracks hx q⁻¹
    rwa [Rat.cast_inv, ← div_eq_mul_inv] at h
  clamp hx lo hi := Tracked.clamp_tracks hx lo hi
  phase hx τ := Tracked.phase_tracks hx τ
  belowHalf hφ hx hy := Tracked.belowHalf_tracks hφ hx hy
  sinTurns hφ := Tracked.sinTurns_tracks p keep hφ
  exp2 x := Tracked.exp2_tracks p keep x

/-- Settles O44: each operation of the model's arithmetic tracks the exact one, and so the sample made of
them does; and the test for 0 groups a sum by powers of 2 and by the q-parts of its turns. -/
theorem enclosureHoldsTheExactSample : Obligations.EnclosureHoldsTheExactSample :=
  ⟨fun p keep o => (tracked_refines_real p keep).sampleOut o, fun _ => Exact.value_eq_zero_of_isZero⟩

end Sys2Proof.Machine

/-! PROOFS. The values a parameter register can hold (10_state.md R22 to R32): what the clamps of
44_control.md R242 and the note-number conversion of R241 store. -/

namespace Sys2Proof.Machine

/-! ### Rounding keeps bounds that are themselves binary32 values (00_scope.md R8) -/

/-- A number that a finite word denotes. -/
def IsWordValue (q : Rat) : Prop := ∃ w : Word, isFinite w = true ∧ f32 w = q

theorem isWordValue_f32 {w : Word} (h : isFinite w = true) : IsWordValue (f32 w) := ⟨w, h, rfl⟩

theorem isWordValue_zero : IsWordValue 0 := ⟨0#32, by decide, f32_zero⟩

theorem isWordValue_one : IsWordValue 1 := ⟨0x3F800000#32, by decide, by decide +kernel⟩

theorem isWordValue_freqMax : IsWordValue Config.freqMax := ⟨0x469C4000#32, by decide, by decide +kernel⟩

theorem isWordValue_dMax : IsWordValue Config.dMax := ⟨0x42C80000#32, by decide, by decide +kernel⟩

theorem isWordValue_durMax : IsWordValue Config.durMax := ⟨0x41200000#32, by decide, by decide +kernel⟩

theorem isWordValue_strengthMax : IsWordValue Config.strengthMax :=
  ⟨0x3F000000#32, by decide, by decide +kernel⟩

/-- The nearest word to a number between two word values is between them, for a bound it passed over would
be nearer. -/
theorem toF32_wordIn {lo hi q : Rat} (hlo : IsWordValue lo) (hhi : IsWordValue hi) (h : lo ≤ q ∧ q ≤ hi) :
    wordIn lo hi (toF32 q) := by
  obtain ⟨a, ha, rfl⟩ := hlo
  obtain ⟨b, hb, rfl⟩ := hhi
  have hmax : |q| ≤ f32 0x7F7FFFFF#32 :=
    abs_le.mpr ⟨(abs_le.mp (abs_f32_le_largest ha)).1.trans h.1,
      h.2.trans (abs_le.mp (abs_f32_le_largest hb)).2⟩
  obtain ⟨hfin, hnear, -, -⟩ := toF32RoundsToNearestEven q hmax
  have hna : |q - f32 (toF32 q)| ≤ q - f32 a := by
    rw [← abs_of_nonneg (sub_nonneg.mpr h.1)]
    exact_mod_cast hnear a ha
  have hnb : |q - f32 (toF32 q)| ≤ f32 b - q := by
    rw [← abs_of_nonneg (sub_nonneg.mpr h.2), abs_sub_comm (f32 b)]
    exact_mod_cast hnear b hb
  have h1 := (abs_le.mp hna).2
  have h2 := (abs_le.mp hnb).1
  exact ⟨hfin, by linarith, by linarith⟩

/-! ### The clamps (44_control.md R227, R228, R233, R242) -/

theorem clampRat_mem (x : Rat) {lo hi : Rat} (h : lo ≤ hi) : lo ≤ clampRat x lo hi ∧ clampRat x lo hi ≤ hi :=
  ⟨le_min (le_max_right _ _) h, min_le_right _ _⟩

theorem countClamp_mem (a : Byte) {lo hi : Nat} (h : lo ≤ hi) :
    lo ≤ countClamp a lo hi ∧ countClamp a lo hi ≤ hi :=
  ⟨le_min (le_max_right _ _) h, min_le_right _ _⟩

theorem freqClamp_mem (w : Word) : 0 ≤ freqClamp w ∧ freqClamp w ≤ Config.freqMax := by
  have hle : 0 ≤ Config.freqMax := by decide
  unfold freqClamp
  split_ifs
  · exact ⟨le_rfl, hle⟩
  · exact ⟨hle, le_rfl⟩
  · exact ⟨le_rfl, hle⟩
  · exact clampRat_mem _ hle

theorem durClamp_mem (w : Word) {dflt : Word} (hd : legalDuration dflt) :
    f32 Config.epsDur ≤ durClamp w dflt ∧ durClamp w dflt ≤ Config.durMax := by
  have hle : f32 Config.epsDur ≤ Config.durMax := hd.2.1.trans hd.2.2
  unfold durClamp
  split_ifs
  · exact hd.2
  · exact ⟨hle, le_rfl⟩
  · exact ⟨le_rfl, hle⟩
  · exact clampRat_mem _ hle

theorem levelClamp_mem (w : Word) {lo hi : Rat} {dflt : Word} (hd : wordIn lo hi dflt) :
    lo ≤ levelClamp w lo hi dflt ∧ levelClamp w lo hi dflt ≤ hi := by
  have hle : lo ≤ hi := hd.2.1.trans hd.2.2
  unfold levelClamp
  split_ifs
  · exact hd.2
  · exact ⟨hle, le_rfl⟩
  · exact ⟨le_rfl, hle⟩
  · exact clampRat_mem _ hle

/-! ### The word of a tracked number between two word values (log entry 5) -/

/-- Both ends of the enclosure lie in [lo, hi]. -/
def Ival.Within (lo hi : Rat) (i : Ival) : Prop := lo ≤ i.lo ∧ i.lo ≤ i.hi ∧ i.hi ≤ hi

theorem Ival.Within.toF32_ends {lo hi : Rat} {i : Ival} (h : i.Within lo hi) (hlo : IsWordValue lo)
    (hhi : IsWordValue hi) : wordIn lo hi (toF32 i.lo) ∧ wordIn lo hi (toF32 i.hi) := by
  obtain ⟨h1, h2, h3⟩ := h
  exact ⟨toF32_wordIn hlo hhi ⟨h1, h2.trans h3⟩, toF32_wordIn hlo hhi ⟨h1.trans h2, h3⟩⟩

/-- The number at which the word changes is 0 inside the enclosure, or the middle of two words in
bounds. -/
theorem Ival.Within.boundary_mem {lo hi : Rat} {i : Ival} (h : i.Within lo hi) (hlo : IsWordValue lo)
    (hhi : IsWordValue hi) : lo ≤ i.boundary ∧ i.boundary ≤ hi := by
  obtain ⟨⟨-, hl1, hl2⟩, -, hh1, hh2⟩ := h.toF32_ends hlo hhi
  obtain ⟨h1, -, h3⟩ := h
  unfold Ival.boundary
  split_ifs with h0
  · exact ⟨h1.trans h0.1, h0.2.trans h3⟩
  · rw [Rat.mkRat_eq_div]
    push_cast
    constructor <;> linarith

theorem Tracked.word_wordIn {lo hi : Rat} {x : Tracked} {w : Word} (h : x.ival.Within lo hi)
    (hlo : IsWordValue lo) (hhi : IsWordValue hi) (hw : x.word = some w) : wordIn lo hi w := by
  unfold Tracked.word at hw
  split_ifs at hw
  · exact Option.some.inj hw ▸ (h.toF32_ends hlo hhi).1
  · exact Option.some.inj hw ▸ toF32_wordIn hlo hhi (h.boundary_mem hlo hhi)

theorem wordAt_wordIn {lo hi : Rat} {enc : Nat → Bool → Tracked} {p : Nat} {w : Word}
    (h : ∀ keep, (enc p keep).ival.Within lo hi) (hlo : IsWordValue lo) (hhi : IsWordValue hi)
    (hw : wordAt enc p = some w) : wordIn lo hi w := by
  unfold wordAt at hw
  split at hw
  · next v hv => exact Option.some.inj hw ▸ Tracked.word_wordIn (h false) hlo hhi hv
  · exact Tracked.word_wordIn (h true) hlo hhi hw

/-- Whatever precision settles the word, and whatever the free choice where none does, the word is in
bounds. -/
theorem roundTracked_wordIn {lo hi : Rat} {enc : Nat → Bool → Tracked}
    (h : ∀ p keep, (enc p keep).ival.Within lo hi) (hlo : IsWordValue lo) (hhi : IsWordValue hi)
    (n p : Nat) : wordIn lo hi (roundTracked enc n p) := by
  induction n generalizing p with
  | zero =>
    obtain ⟨hl, hh⟩ := (h p false).toF32_ends hlo hhi
    exact iteInduction (motive := wordIn lo hi) (fun _ => hl) fun _ => hh
  | succ n ih =>
    unfold roundTracked
    split
    · next hw => exact wordAt_wordIn (h p) hlo hhi hw
    · exact ih (2 * p)

theorem Tracked.clamp_within {x : Tracked} {r : ℝ} (hx : x.tracks r) {lo hi : Rat} (hle : lo ≤ hi) :
    (x.clamp lo hi).ival.Within lo hi := by
  obtain ⟨⟨hlo, hhi⟩, -⟩ := Tracked.resolve_tracks (Tracked.resolve_tracks hx lo) hi
  have hends : ((x.resolve lo).resolve hi).ival.lo ≤ ((x.resolve lo).resolve hi).ival.hi := by
    exact_mod_cast hlo.trans hhi
  unfold Tracked.clamp
  dsimp only
  split_ifs with h
  · exact ⟨h.1, hends, h.2⟩
  · exact ⟨(clampRat_mem _ hle).1, min_le_min_right _ (max_le_max_right _ hends), (clampRat_mem _ hle).2⟩

/-! ### The note-number conversion (44_control.md R221, R241) -/

/-- NOTE_FREQ in the model's arithmetic tracks the exact one. -/
theorem noteFreq_tracks (p : Nat) (keep : Bool) (n : Byte) :
    (noteFreq (Numerics.tracked p keep) n).tracks (noteFreq Numerics.real n) :=
  (tracked_refines_real p keep).mul ((tracked_refines_real p keep).exact _)
    ((tracked_refines_real p keep).exp2 _)

theorem noteWord_wordIn (n : Byte) : wordIn 0 Config.freqMax (noteWord n) :=
  roundTracked_wordIn (fun p keep => Tracked.clamp_within (noteFreq_tracks p keep n) (by decide))
    isWordValue_zero isWordValue_freqMax _ _

/-! ### Legal field groups (10_state.md R22 to R32, R38) -/

def FreqGroup.legal (g : FreqGroup) : Prop := wordIn 0 Config.freqMax g.freq

def VoiceGroup.legal (g : VoiceGroup) : Prop :=
  (1 ≤ g.voices.toNat ∧ g.voices.toNat ≤ 8) ∧ wordIn 0 Config.dMax g.detune

def EnvpGroup.legal (g : EnvpGroup) : Prop :=
  legalDuration g.attack ∧ legalDuration g.decay ∧ wordIn 0 1 g.sustain ∧ legalDuration g.release

def QualGroup.legal (g : QualGroup) : Prop :=
  (1 ≤ g.osr.toNat ∧ g.osr.toNat ≤ 16) ∧ wordIn 0 1 g.alpha ∧ wordIn 0 Config.strengthMax g.strength

/-- Parameters are legal group by group. -/
theorem Params.legal_iff (p : Params) :
    p.legal ↔ p.freqGroup.legal ∧ p.voiceGroup.legal ∧ p.envpGroup.legal ∧ p.qualGroup.legal := by
  simp only [FreqGroup.legal, VoiceGroup.legal, EnvpGroup.legal, QualGroup.legal, and_assoc]

theorem Params.reset_legal : Params.reset.legal := by decide +kernel

/-- A snapshot takes each group whole, from the parameters or from the last snapshot (20_memory.md R68). -/
theorem snapshot_legal (d : Draw) {p q : Params} (hp : p.legal) (hq : q.legal) : (snapshot d p q).legal := by
  rw [Params.legal_iff] at hp hq ⊢
  obtain ⟨hpf, hpv, hpe, hpq⟩ := hp
  obtain ⟨hqf, hqv, hqe, hqq⟩ := hq
  exact ⟨iteInduction (motive := FreqGroup.legal) (fun _ => hpf) fun _ => hqf,
    iteInduction (motive := VoiceGroup.legal) (fun _ => hpv) fun _ => hqv,
    iteInduction (motive := EnvpGroup.legal) (fun _ => hpe) fun _ => hqe,
    iteInduction (motive := QualGroup.legal) (fun _ => hpq) fun _ => hqq⟩

/-! ### What the setters store (44_control.md R225 to R235) -/

theorem freqClamp_wordIn (w : Word) : wordIn 0 Config.freqMax (toF32 (freqClamp w)) :=
  toF32_wordIn isWordValue_zero isWordValue_freqMax (freqClamp_mem w)

theorem detuneClamp_wordIn (w : Word) : wordIn 0 Config.dMax (toF32 (detuneClamp w)) :=
  toF32_wordIn isWordValue_zero isWordValue_dMax (clampRat_mem _ (by decide))

theorem durClamp_wordIn (w : Word) {dflt : Word} (hd : legalDuration dflt) :
    legalDuration (toF32 (durClamp w dflt)) :=
  toF32_wordIn (isWordValue_f32 (by decide)) isWordValue_durMax (durClamp_mem w hd)

theorem levelClamp_wordIn (w : Word) {lo hi : Rat} {dflt : Word} (hlo : IsWordValue lo)
    (hhi : IsWordValue hi) (hd : wordIn lo hi dflt) : wordIn lo hi (toF32 (levelClamp w lo hi dflt)) :=
  toF32_wordIn hlo hhi (levelClamp_mem w hd)

/-- A count clamped into a range that its field of k bits can hold. -/
theorem ofNat_countClamp_mem (k : Nat) (a : Byte) {lo hi : Nat} (hle : lo ≤ hi) (hk : hi < 2 ^ k) :
    lo ≤ (BitVec.ofNat k (countClamp a lo hi)).toNat
      ∧ (BitVec.ofNat k (countClamp a lo hi)).toNat ≤ hi := by
  obtain ⟨h1, h2⟩ := countClamp_mem a hle
  rw [BitVec.toNat_ofNat, Nat.mod_eq_of_lt (h2.trans_lt hk)]
  exact ⟨h1, h2⟩

end Sys2Proof.Machine

/-! PROOFS. Every operation on the envelope keeps it legal (10_state.md R40 to R45, 42_envelope.md R152 to
R156). -/

namespace Sys2Proof.Machine

/-! ### The stages of a legal envelope -/

theorem Envelope.reset_legal : Envelope.reset.legal := by decide +kernel

/-- A note is held only by an envelope that is not Idle. -/
theorem Stage.ne_idle_of_triggered {st : Stage} (h : st.triggered = true) : st ≠ .idle := by
  rintro rfl
  exact nomatch h

/-! ### Note events (42_envelope.md R152, R153; 43_engine.md R193) -/

/-- An end of a held note releases from the value; any other leaves the envelope alone. -/
theorem envEnd_legal (sel : Option Byte) {e : Envelope} (h : e.legal) : (envEnd sel e).legal := by
  unfold envEnd
  split_ifs with hend
  · obtain ⟨hv0, hv1, -, -, -, hs0, hs1, -, -, hvalid, hnote⟩ := h
    have htrig : e.stage.triggered = true := (Bool.and_eq_true_iff.mp hend).1
    exact ⟨hv0, hv1, le_rfl, hv0, hv1, hs0, hs1, nofun, nofun,
      fun _ => hvalid (Stage.ne_idle_of_triggered htrig), hnote⟩
  · exact h

/-- A start begins Attack at the value, whatever note was held before. -/
theorem envStart_legal (tok : Byte) {sus : Rat} (hsus : 0 ≤ sus ∧ sus ≤ 1) {e : Envelope} (h : e.legal) :
    (envStart tok sus e).legal := by
  have hattack (x : Envelope) (hx : x.legal) :
      { x with origin := x.value, stage := .attack, elapsed := 0, note := tok, noteValid := true,
               susSnap := sus }.legal := by
    obtain ⟨hv0, hv1, -⟩ := hx
    exact ⟨hv0, hv1, le_rfl, hv0, hv1, hsus.1, hsus.2, nofun, nofun, fun _ => rfl, nofun⟩
  unfold envStart
  split_ifs
  · exact h
  · exact hattack _ (envEnd_legal none h)
  · exact hattack _ h

theorem applyEvent_legal {sus : Rat} (hsus : 0 ≤ sus ∧ sus ≤ 1) {e : Envelope} (h : e.legal)
    (ev : NoteEvent) : (applyEvent sus e ev).legal := by
  cases ev with
  | start tok => exact envStart_legal tok hsus h
  | stop tok => exact envEnd_legal (some tok) h
  | stopAny => exact envEnd_legal none h

/-- Every event of a queue applied in order. -/
theorem foldl_applyEvent_legal {sus : Rat} (hsus : 0 ≤ sus ∧ sus ≤ 1) {e : Envelope} (h : e.legal)
    (evq : List NoteEvent) : (evq.foldl (applyEvent sus) e).legal :=
  List.foldlRecOn evq (applyEvent sus) h fun _ hx ev _ => applyEvent_legal hsus hx ev

/-! ### The update (42_envelope.md R154, R156) -/

/-- `Envelope.legal` without its clauses on E.value, which an update writes last. -/
def Envelope.LegalButValue (e : Envelope) : Prop :=
  0 ≤ e.elapsed ∧ (0 ≤ e.origin ∧ e.origin ≤ 1) ∧ (0 ≤ e.susSnap ∧ e.susSnap ≤ 1)
    ∧ (e.stage = .idle → e.elapsed = 0 ∧ e.origin = 0 ∧ e.noteValid = false)
    ∧ (e.stage = .sustain → e.elapsed = 0)
    ∧ (e.stage ≠ .idle → e.noteValid = true)
    ∧ (e.noteValid = false → e.note = 0#8)

theorem Envelope.legal.legalButValue {e : Envelope} (h : e.legal) : e.LegalButValue := by
  obtain ⟨-, -, helapsed, ho0, ho1, hs0, hs1, hidle, hrest⟩ := h
  exact ⟨helapsed, ⟨ho0, ho1⟩, ⟨hs0, hs1⟩, fun hst => (hidle hst).2, hrest⟩

/-- Writing a value of [0, 1], which is 0 in Idle, makes the envelope legal. -/
theorem Envelope.LegalButValue.withValue {e : Envelope} (h : e.LegalButValue) {v : Rat}
    (hv : 0 ≤ v ∧ v ≤ 1) (hidle : e.stage = .idle → v = 0) : { e with value := v }.legal := by
  obtain ⟨helapsed, ⟨ho0, ho1⟩, ⟨hs0, hs1⟩, hrest0, hrest⟩ := h
  exact ⟨hv.1, hv.2, helapsed, ho0, ho1, hs0, hs1, fun hst => ⟨hidle hst, hrest0 hst⟩, hrest⟩

/-- Time passes in a stage that keeps it. -/
theorem Envelope.LegalButValue.elapse {e : Envelope} (h : e.LegalButValue) {dt : Rat} (hdt : 0 ≤ dt)
    (hi : e.stage ≠ .idle) (hs : e.stage ≠ .sustain) :
    { e with elapsed := e.elapsed + dt }.LegalButValue := by
  obtain ⟨helapsed, ho, hsus, -, -, hrest⟩ := h
  exact ⟨add_nonneg helapsed hdt, ho, hsus, fun h => absurd h hi, fun h => absurd h hs, hrest⟩

theorem Envelope.LegalButValue.attackToDecay {e : Envelope} (h : e.LegalButValue) (a : Rat) :
    (attackToDecay a e).LegalButValue := by
  unfold Machine.attackToDecay
  split_ifs with hmove
  · obtain ⟨-, ho, hsus, -, -, hvalid, hnote⟩ := h
    exact ⟨sub_nonneg.mpr hmove.2, ho, hsus, nofun, nofun, fun _ => hvalid (by simp [hmove.1]), hnote⟩
  · exact h

theorem Envelope.LegalButValue.decayToSustain {e : Envelope} (h : e.LegalButValue) (d : Rat) :
    (decayToSustain d e).LegalButValue := by
  unfold Machine.decayToSustain
  split_ifs with hmove
  · obtain ⟨-, ho, hsus, -, -, hvalid, hnote⟩ := h
    exact ⟨le_rfl, ho, hsus, nofun, fun _ => rfl, fun _ => hvalid (by simp [hmove.1]), hnote⟩
  · exact h

theorem Envelope.LegalButValue.releaseToIdle {e : Envelope} (h : e.LegalButValue) (r : Rat) :
    (releaseToIdle r e).LegalButValue := by
  unfold Machine.releaseToIdle
  split_ifs
  · obtain ⟨-, -, hsus, -⟩ := h
    exact ⟨le_rfl, ⟨le_rfl, zero_le_one⟩, hsus, fun _ => ⟨rfl, rfl, rfl⟩, nofun, fun h => absurd rfl h,
      fun _ => rfl⟩
  · exact h

/-- Attack, Decay and Release: the time step, the three transitions, then VAL(E). -/
theorem Envelope.LegalButValue.advance {e : Envelope} (h : e.LegalButValue) {dt : Rat} (hdt : 0 ≤ dt)
    (hi : e.stage ≠ .idle) (hs : e.stage ≠ .sustain) (a d r : Rat) :
    let u := Machine.releaseToIdle r (Machine.decayToSustain d (Machine.attackToDecay a
      { e with elapsed := e.elapsed + dt }))
    { u with value := envValue u a d r }.legal := by
  intro u
  have hu : u.LegalButValue := (((h.elapse hdt hi hs).attackToDecay a).decayToSustain d).releaseToIdle r
  obtain ⟨-, ho, hsus, -⟩ := id hu
  exact hu.withValue (envValue_mem ho hsus a d r) fun hidle => by simp [envValue, hidle]

/-- An update sets the value to 0 in Idle, to the captured level in Sustain, and elsewhere to VAL(E). -/
theorem envUpdate_legal {dt : Rat} (hdt : 0 ≤ dt) (ap dp rp : Rat) {e : Envelope} (h : e.legal) :
    (envUpdate dt ap dp rp e).legal := by
  have hbut := h.legalButValue
  obtain ⟨-, -, hsus, hidle, -⟩ := id hbut
  obtain ⟨stage, value, elapsed, origin, susSnap, note, noteValid⟩ := e
  cases stage with
  | idle =>
    obtain rfl : elapsed = 0 := (hidle rfl).1
    exact hbut.withValue ⟨le_rfl, zero_le_one⟩ fun _ => rfl
  | sustain => exact hbut.withValue hsus nofun
  | attack | decay | release => exact hbut.advance hdt nofun nofun _ _ _

end Sys2Proof.Machine

/-! PROOFS. What one step can do (20_memory.md R67, 44_control.md R220), said once for every instruction,
and with it the statements about every step (10_state.md R34, R35, R53). -/

namespace Sys2Proof.Machine

/-! ### One step and its input (20_memory.md R67; log entry 1) -/

/-- A step that answers a next state is an engine step with no transaction at hand, the execution of a
decoded transaction, or the record of a malformed one. -/
theorem stepOf_cases {R : Realization} {s t : State} (h : stepOf R s = .next t) :
    (∃ rest : List Input, (∀ tx rest', s.inputs ≠ .port tx :: rest')
        ∧ engineStep R { s with inputs := rest } = .next t)
      ∨ (∃ tx rest i, s.inputs = .port tx :: rest ∧ decode tx = .ok i
          ∧ exec i { s with inputs := rest } = .next t)
      ∨ ∃ (rest : List Input) (c : BadCommand), { s with inputs := rest }.raise (conditionOf c) = t := by
  unfold stepOf State.nextInput at h
  cases hin : s.inputs with
  | nil =>
    rw [hin] at h
    exact .inl ⟨s.inputs, nofun, h⟩
  | cons i rest =>
    rw [hin] at h
    cases i with
    | engineTurn => exact .inl ⟨rest, nofun, h⟩
    | port tx =>
      dsimp only at h
      cases hd : decode tx with
      | ok i =>
        rw [hd] at h
        exact .inr (.inl ⟨tx, rest, i, rfl, hd, h⟩)
      | error c =>
        rw [hd] at h
        exact .inr (.inr ⟨rest, c, Host.Outcome.next.inj h⟩)

/-! ### What an instruction can do (44_control.md R220 to R239, 43_engine.md R190) -/

/-- `Instr.Effect s i t`: `t` is a next state that `i` may give from `s`. Where an instruction writes PARAM,
only that it keeps PARAM legal is said. -/
inductive Instr.Effect (s : State) : Instr → State → Prop
  | setParam (i : Instr) (p : Params) (hp : s.param.legal → p.legal) : Effect s i { s with param := p }
  | noteEvent (i : Instr) (p : Params) (hp : s.param.legal → p.legal) (e : NoteEvent) :
      Effect s i ({ s with param := p }.noteEvent e)
  | beginSession (w : Word) (hw : rateAccepted w = true) : Effect s (.streamStart w) (s.beginSession w)
  | badRate (w : Word) : Effect s (.streamStart w) (s.raise .badRate)
  | stopIgnored : Effect s .streamStop s
  | stopDeferred (hfip : s.fill.fip = true) :
      Effect s .streamStop { s with fill := { s.fill with stopPend := true } }
  | endSession (hfip : s.fill.fip = false) : Effect s .streamStop s.endSession
  | reply (i : Instr) (w : Word) : Effect s i (s.reply w)
  | clearConditions : Effect s .clrStatus s.clearConditions
  | fillStopped (fn fbuf : Word) : Effect s (.fill fn fbuf) (fillStopped fn fbuf s)
  | bufferStart (fn fbuf : Word) (halign : fbuf.toNat % 4 = 0) (hrun : s.status.running = true) :
      Effect s (.fill fn fbuf) (bufferStart { s with fill := s.fill.begin fn fbuf })

section Setters

variable {p : Params}

theorem Params.legal.setFreqGroup (h : p.legal) {g : FreqGroup} (hg : g.legal) :
    { p with freqGroup := g }.legal := by
  rw [Params.legal_iff] at h ⊢
  exact ⟨hg, h.2⟩

theorem Params.legal.setVoiceGroup (h : p.legal) {g : VoiceGroup} (hg : p.voiceGroup.legal → g.legal) :
    { p with voiceGroup := g }.legal := by
  rw [Params.legal_iff] at h ⊢
  obtain ⟨hf, hv, hrest⟩ := h
  exact ⟨hf, hg hv, hrest⟩

theorem Params.legal.setEnvpGroup (h : p.legal) {g : EnvpGroup} (hg : p.envpGroup.legal → g.legal) :
    { p with envpGroup := g }.legal := by
  rw [Params.legal_iff] at h ⊢
  obtain ⟨hf, hv, he, hq⟩ := h
  exact ⟨hf, hv, hg he, hq⟩

theorem Params.legal.setQualGroup (h : p.legal) {g : QualGroup} (hg : p.qualGroup.legal → g.legal) :
    { p with qualGroup := g }.legal := by
  rw [Params.legal_iff] at h ⊢
  obtain ⟨hf, hv, he, hq⟩ := h
  exact ⟨hf, hv, he, hg hq⟩

end Setters

/-- The effect of an arm that answers its next state outright. -/
theorem Instr.Effect.of_next {i : Instr} {s u t : State}
    (h : (.next u : Host.Outcome State Fault Refusal) = .next t) (hu : Effect s i u) : Effect s i t :=
  Host.Outcome.next.inj h ▸ hu

theorem execNoteOn_effect {note vel : Byte} {s t : State} (h : execNoteOn note vel s = .next t) :
    Instr.Effect s (.noteOn note vel) t := by
  unfold execNoteOn at h
  split_ifs at h
  · exact .of_next h <| .noteEvent _ s.param id _
  · exact .of_next h <| .noteEvent _ _ (·.setFreqGroup (noteWord_wordIn note)) _

theorem execSetDetune_effect {w : Word} {s t : State} (h : execSetDetune w s = .next t) :
    Instr.Effect s (.setDetune w) t := by
  unfold execSetDetune at h
  split_ifs at h
  · exact .of_next h <| .setParam _ _ (·.setVoiceGroup fun ⟨hv, _⟩ => ⟨hv, detuneClamp_wordIn w⟩)
  · exact .of_next h <| .setParam _ _ (·.setVoiceGroup fun _ =>
      ⟨show 1 ≤ (1#4).toNat ∧ (1#4).toNat ≤ 8 by decide,
        toF32_wordIn isWordValue_zero isWordValue_dMax (by decide)⟩)

theorem execStreamStart_effect {w : Word} {s t : State} (h : execStreamStart w s = .next t) :
    Instr.Effect s (.streamStart w) t := by
  unfold execStreamStart at h
  split_ifs at h with hw
  · exact .of_next h <| .beginSession w hw
  · exact .of_next h <| .badRate w

theorem execStreamStop_effect {s t : State} (h : execStreamStop s = .next t) :
    Instr.Effect s .streamStop t := by
  unfold execStreamStop at h
  split_ifs at h with _ hfip
  · exact .of_next h <| .stopDeferred hfip
  · exact .of_next h <| .endSession (Bool.eq_false_of_not_eq_true hfip)
  · exact .of_next h <| .stopIgnored

theorem execFill_effect {fn fbuf : Word} {s t : State} (h : execFill fn fbuf s = .next t) :
    Instr.Effect s (.fill fn fbuf) t := by
  rcases execFill_cases fn fbuf s with ⟨-, h'⟩ | ⟨-, -, h'⟩ | ⟨-, -, -, h'⟩ | ⟨halign, -, hrun, h'⟩ <;>
    rw [h'] at h
  · exact nomatch h
  · exact nomatch h
  · exact .of_next h <| .fillStopped fn fbuf
  · exact .of_next h <| .bufferStart fn fbuf halign hrun

theorem exec_effect {i : Instr} {s t : State} (h : exec i s = .next t) : Instr.Effect s i t := by
  cases i with
  | noteOn note vel => exact execNoteOn_effect h
  | setDetune w => exact execSetDetune_effect h
  | streamStart w => exact execStreamStart_effect h
  | streamStop => exact execStreamStop_effect h
  | fill fn fbuf => exact execFill_effect h
  | noteOff | gateOn | gateOff => exact .of_next h <| .noteEvent _ s.param id _
  | getReg idx => exact .of_next h <| .reply _ _
  | clrStatus => exact .of_next h <| .clearConditions
  | setFreq w => exact .of_next h <| .setParam _ _ (·.setFreqGroup (freqClamp_wordIn w))
  | setWave kind => exact .of_next h <| .setParam _ _ (·.setVoiceGroup id)
  | setVoices count =>
    exact .of_next h <| .setParam _ _ (·.setVoiceGroup fun ⟨_, hd⟩ =>
      ⟨ofNat_countClamp_mem 4 count (by decide) (by decide), hd⟩)
  | setAttack w =>
    exact .of_next h <| .setParam _ _ (·.setEnvpGroup fun ⟨_, hrest⟩ =>
      ⟨durClamp_wordIn w (by decide +kernel), hrest⟩)
  | setDecay w =>
    exact .of_next h <| .setParam _ _ (·.setEnvpGroup fun ⟨ha, _, hrest⟩ =>
      ⟨ha, durClamp_wordIn w (by decide +kernel), hrest⟩)
  | setSustain w =>
    exact .of_next h <| .setParam _ _ (·.setEnvpGroup fun ⟨ha, hd, _, hr⟩ =>
      ⟨ha, hd, levelClamp_wordIn w isWordValue_zero isWordValue_one (by decide +kernel), hr⟩)
  | setRelease w =>
    exact .of_next h <| .setParam _ _ (·.setEnvpGroup fun ⟨ha, hd, hs, _⟩ =>
      ⟨ha, hd, hs, durClamp_wordIn w (by decide +kernel)⟩)
  | setOsr ratio =>
    exact .of_next h <| .setParam _ _ (·.setQualGroup fun ⟨_, hrest⟩ =>
      ⟨ofNat_countClamp_mem 5 ratio (by decide) (by decide), hrest⟩)
  | setAlpha w =>
    exact .of_next h <| .setParam _ _ (·.setQualGroup fun ⟨ho, _, hst⟩ =>
      ⟨ho, levelClamp_wordIn w isWordValue_zero isWordValue_one (by decide +kernel), hst⟩)
  | setStrength w =>
    exact .of_next h <| .setParam _ _ (·.setQualGroup fun ⟨ho, ha, _⟩ =>
      ⟨ho, ha, levelClamp_wordIn w isWordValue_zero isWordValue_strengthMax (by decide +kernel)⟩)

end Sys2Proof.Machine

/-! PROOFS. The statements about every step (10_state.md R34, R35, R53), each from what an instruction, an
engine step and a malformed transaction can do. -/

namespace Sys2Proof.Machine

/-! ### The buffer end (43_engine.md R199) -/

/-- FIP, BADBUF and STOP_PEND cleared (R199). -/
def State.closeFill (s : State) : State :=
  { s with fill := { s.fill with fip := false, badBuf := false, stopPend := false } }

theorem silenceBadBuffer_fill (s : State) : (silenceBadBuffer s).fill = s.fill := by
  unfold silenceBadBuffer
  split_ifs <;> rfl

/-- The buffer end ends the session where a stop is pending, after it has closed the FILL. -/
theorem bufferEnd_eq (s : State) :
    bufferEnd s = if s.fill.stopPend then (silenceBadBuffer s).closeFill.endSession
      else (silenceBadBuffer s).closeFill := by
  rw [← silenceBadBuffer_fill]
  rfl

/-! ### RUNNING (10_state.md R34) -/

@[simp] theorem Status.record_running (st : Status) (c : Condition) : (st.record c).running = st.running := by
  cases c <;> rfl

theorem State.noteEvent_running (s : State) (e : NoteEvent) :
    (s.noteEvent e).status.running = s.status.running := by
  rcases s.noteEvent_cases e with ⟨-, h⟩ | ⟨-, -, h⟩ | ⟨-, -, h⟩ <;> rw [h]
  exact Status.record_running _ _

theorem silenceBadBuffer_running (s : State) :
    (silenceBadBuffer s).status.running = s.status.running := by
  unfold silenceBadBuffer
  split_ifs
  · exact Status.record_running _ _
  · rfl

/-- Of the instructions only STREAM_START and STREAM_STOP change RUNNING. -/
theorem Instr.Effect.running_cases {i : Instr} {s t : State} (h : Effect s i t) :
    t.status.running = s.status.running
      ∨ (∃ w, i = .streamStart w ∧ rateAccepted w = true ∧ t.status.running = true)
      ∨ (i = .streamStop ∧ s.fill.fip = false ∧ t.status.running = false) := by
  cases h with
  | beginSession w hw => exact .inr (.inl ⟨w, rfl, hw, rfl⟩)
  | endSession hfip => exact .inr (.inr ⟨rfl, hfip, rfl⟩)
  | noteEvent => exact .inl (State.noteEvent_running _ _)
  | badRate | fillStopped => exact .inl (Status.record_running _ _)
  | setParam | stopIgnored | stopDeferred | reply | clearConditions | bufferStart => exact .inl rfl

/-- The engine changes RUNNING only at the buffer end of a FILL with a stop pending. -/
theorem engineStep_running_cases {R : Realization} {s t : State} (h : engineStep R s = .next t) :
    t.status.running = s.status.running
      ∨ (s.fill.fip = true ∧ s.fill.stopPend = true ∧ s.fill.fn.toNat ≤ s.fill.fj.toNat
          ∧ t.status.running = false) := by
  rcases engineStep_cases R s with ⟨-, h'⟩ | ⟨-, -, -, h'⟩ | ⟨-, -, -, h'⟩ | ⟨hfip, hj, h'⟩ <;>
    rw [h'] at h
  · exact .inl (Host.Outcome.next.inj h ▸ rfl)
  · exact .inl (Host.Outcome.next.inj h ▸ rfl)
  · exact nomatch h
  · obtain rfl := Host.Outcome.next.inj h
    rw [bufferEnd_eq]
    split_ifs with hstop
    · exact .inr ⟨hfip, hstop, not_lt.mp hj, rfl⟩
    · exact .inl (silenceBadBuffer_running s)

theorem rateAccepted_iff {w : Word} : rateAccepted w = true ↔ isFinite w = true ∧ 0 < f32 w := by
  simp [rateAccepted]

/-- Settles O56: only STREAM_START sets RUNNING; STREAM_STOP and the engine's deferred stop clear it. -/
theorem runningChangesOnlyByTransport : Obligations.RunningChangesOnlyByTransport := by
  intro s t hstep
  rcases stepOf_cases hstep with ⟨rest, hport, h⟩ | ⟨tx, rest, i, hin, hd, h⟩ | ⟨rest, c, rfl⟩
  · rcases engineStep_running_cases h with hsame | ⟨hfip, hpend, hj, ht⟩
    · exact ⟨fun h0 h1 => by simp [hsame, h0] at h1, fun h1 h0 => by simp [hsame, h1] at h0⟩
    · exact ⟨fun _ h1 => by simp [ht] at h1, fun _ _ => .inr ⟨hfip, hpend, hj, hport⟩⟩
  · rcases (exec_effect h).running_cases with hsame | ⟨w, rfl, hw, ht⟩ | ⟨rfl, hfip, ht⟩
    · exact ⟨fun h0 h1 => by simp [hsame, h0] at h1, fun h1 h0 => by simp [hsame, h1] at h0⟩
    · have hrate := rateAccepted_iff.mp hw
      exact ⟨fun _ _ => ⟨tx, rest, w, hin, hd, hrate⟩, fun _ h0 => by simp [ht] at h0⟩
    · exact ⟨fun _ h1 => by simp [ht] at h1, fun _ _ => .inl ⟨hfip, tx, rest, hin, hd⟩⟩
  · exact ⟨fun h0 h1 => by simp [h0] at h1, fun h1 h0 => by simp [h1] at h0⟩

/-! ### The sticky bits (10_state.md R35, 60_exceptions.md R261, R264) -/

/-- Some sticky bit that is set in `st` is clear in `st'`. -/
def Status.ClearsSticky (st st' : Status) : Prop :=
  (st.badCmd = true ∧ st'.badCmd = false) ∨ (st.evqOvf = true ∧ st'.evqOvf = false)
    ∨ (st.setupErr = true ∧ st'.setupErr = false) ∨ (st.silenced = true ∧ st'.silenced = false)
    ∨ (st.fillIdle = true ∧ st'.fillIdle = false)

theorem Status.not_clearsSticky_self (st : Status) : ¬ st.ClearsSticky st := by simp [ClearsSticky]

theorem Status.not_clearsSticky_record (st : Status) (c : Condition) : ¬ st.ClearsSticky (st.record c) := by
  cases c <;> simp [ClearsSticky, record]

theorem State.noteEvent_keeps_sticky (s : State) (e : NoteEvent) :
    ¬ s.status.ClearsSticky (s.noteEvent e).status := by
  rcases s.noteEvent_cases e with ⟨-, h⟩ | ⟨-, -, h⟩ | ⟨-, -, h⟩ <;> rw [h]
  · exact s.status.not_clearsSticky_self
  · exact s.status.not_clearsSticky_record _
  · exact s.status.not_clearsSticky_self

theorem silenceBadBuffer_keeps_sticky (s : State) :
    ¬ s.status.ClearsSticky (silenceBadBuffer s).status := by
  unfold silenceBadBuffer
  split_ifs
  · exact s.status.not_clearsSticky_record _
  · exact s.status.not_clearsSticky_self

theorem Instr.Effect.eq_clrStatus_of_clearsSticky {i : Instr} {s t : State} (h : Effect s i t)
    (hc : s.status.ClearsSticky t.status) : i = .clrStatus := by
  cases h with
  | clearConditions => rfl
  | noteEvent i p hp e => exact absurd hc (State.noteEvent_keeps_sticky { s with param := p } e)
  | badRate | fillStopped => exact absurd hc (s.status.not_clearsSticky_record _)
  | setParam | beginSession | stopIgnored | stopDeferred | endSession | reply | bufferStart =>
    exact absurd hc s.status.not_clearsSticky_self

theorem engineStep_keeps_sticky {R : Realization} {s t : State} (h : engineStep R s = .next t) :
    ¬ s.status.ClearsSticky t.status := by
  rcases engineStep_cases R s with ⟨-, h'⟩ | ⟨-, -, -, h'⟩ | ⟨-, -, -, h'⟩ | ⟨-, -, h'⟩ <;>
    rw [h'] at h
  · exact Host.Outcome.next.inj h ▸ s.status.not_clearsSticky_self
  · exact Host.Outcome.next.inj h ▸ s.status.not_clearsSticky_self
  · exact nomatch h
  · obtain rfl := Host.Outcome.next.inj h
    rw [bufferEnd_eq]
    split_ifs <;> exact silenceBadBuffer_keeps_sticky s

/-- Settles O55: engine steps and malformed transactions clear no sticky bit, and of the instructions only
CLR_STATUS does. -/
theorem stickyBitsAreClearedOnlyByClrStatus : Obligations.StickyBitsAreClearedOnlyByClrStatus := by
  intro s t hstep (hc : s.status.ClearsSticky t.status)
  rcases stepOf_cases hstep with ⟨rest, -, h⟩ | ⟨tx, rest, i, hin, hd, h⟩ | ⟨rest, c, rfl⟩
  · exact (engineStep_keeps_sticky h hc).elim
  · obtain rfl := (exec_effect h).eq_clrStatus_of_clearsSticky hc
    exact ⟨tx, rest, hin, hd⟩
  · exact absurd hc (s.status.not_clearsSticky_record _)

/-! ### The invariant (10_state.md R53) -/

theorem wordIn_freqMax_zero : wordIn 0 Config.freqMax 0x00000000#32 := by decide +kernel

theorem Condition.code_le (c : Condition) : c.code.toNat ≤ 7 := by cases c <;> decide

/-- Settles O53, clause by clause. -/
theorem resetMeetsTheInvariant : Obligations.ResetMeetsTheInvariant :=
  ⟨Params.reset_legal, Params.reset_legal, wordIn_freqMax_zero, Envelope.reset_legal, by decide, by decide,
    by decide +kernel, List.Pairwise.nil⟩

section Invariant

variable {s : State}

theorem State.Inv.raise (h : s.Inv) (c : Condition) : (s.raise c).Inv := by
  obtain ⟨hparam, hsnap, hfreq, henv, hevq, -, hsession, hmem⟩ := h
  exact ⟨hparam, hsnap, hfreq, henv, hevq, c.code_le, by simpa [State.sessionLegal] using hsession,
    hmem⟩

theorem State.Inv.clearConditions (h : s.Inv) : s.clearConditions.Inv := by
  obtain ⟨hparam, hsnap, hfreq, henv, hevq, -, hsession, hmem⟩ := h
  exact ⟨hparam, hsnap, hfreq, henv, hevq, Nat.zero_le _, hsession, hmem⟩

theorem State.Inv.setParam (h : s.Inv) {p : Params} (hp : p.legal) : { s with param := p }.Inv := ⟨hp, h.2⟩

theorem State.Inv.memWf (h : s.Inv) : Memory.wf s.mem := by
  obtain ⟨-, -, -, -, -, -, -, hmem⟩ := h
  exact hmem

theorem State.Inv.setMem (h : s.Inv) {m : Memory} (hm : Memory.wf m) : { s with mem := m }.Inv := by
  obtain ⟨hparam, hsnap, hfreq, henv, hevq, herr, hsession, -⟩ := h
  exact ⟨hparam, hsnap, hfreq, henv, hevq, herr, hsession, hm⟩

/-- An event is queued only while a session runs and the queue has room. -/
theorem State.Inv.noteEvent (h : s.Inv) (e : NoteEvent) : (s.noteEvent e).Inv := by
  rcases s.noteEvent_cases e with ⟨-, he⟩ | ⟨-, -, he⟩ | ⟨hrun, hroom, he⟩ <;> rw [he]
  · exact h
  · exact h.raise _
  · obtain ⟨hparam, hsnap, hfreq, henv, hevq, herr, ⟨hrate, hpos, -, hfill⟩, hmem⟩ := h
    refine ⟨hparam, hsnap, hfreq, henv, ?_, herr, ⟨hrate, hpos, fun hstop => ?_, hfill⟩, hmem⟩
    · rw [List.length_append, List.length_singleton]
      omega
    · exact absurd hrun (by simp [show s.status.running = false from hstop])

theorem State.Inv.beginSession (h : s.Inv) {w : Word} (hw : rateAccepted w = true) :
    (s.beginSession w).Inv := by
  obtain ⟨hparam, -, -, -, -, herr, ⟨-, -, -, -, hfill⟩, hmem⟩ := h
  have hrate := rateAccepted_iff.mp hw
  exact ⟨hparam, hparam, wordIn_freqMax_zero, Envelope.reset_legal, Nat.zero_le _, herr,
    ⟨⟨hrate.1, hrate.2.le⟩, fun _ => hrate.2, nofun, nofun, hfill⟩, hmem⟩

theorem State.Inv.endSession (h : s.Inv) (hfip : s.fill.fip = false) : s.endSession.Inv := by
  obtain ⟨hparam, hsnap, hfreq, henv, -, herr, ⟨hrate, -, -, hfill⟩, hmem⟩ := h
  exact ⟨hparam, hsnap, hfreq, henv, Nat.zero_le _, herr, ⟨hrate, nofun, fun _ => ⟨rfl, hfip⟩, hfill⟩, hmem⟩

theorem State.Inv.deferStop (h : s.Inv) (hfip : s.fill.fip = true) :
    { s with fill := { s.fill with stopPend := true } }.Inv := by
  obtain ⟨hparam, hsnap, hfreq, henv, hevq, herr, ⟨hrate, hpos, hstopped, -, hfill⟩, hmem⟩ := h
  exact ⟨hparam, hsnap, hfreq, henv, hevq, herr, ⟨hrate, hpos, hstopped, fun _ => hfip, hfill⟩, hmem⟩

theorem State.Inv.fillStopped (h : s.Inv) (fn fbuf : Word) : (fillStopped fn fbuf s).Inv := by
  exact (h.setMem (Memory.wf_writeZeros _ _ h.memWf)).raise _

theorem holdFreq_wordIn {lo hi : Rat} {last snapFreq : Word} (hl : wordIn lo hi last)
    (hs : wordIn lo hi snapFreq) : wordIn lo hi (holdFreq last snapFreq) :=
  iteInduction (motive := wordIn lo hi) (fun _ => hs) fun _ => hl

/-- A FILL that starts while a session runs: an aligned buffer, frame 0 next, and the queue applied. -/
theorem State.Inv.bufferStart (h : s.Inv) {fn fbuf : Word} (halign : fbuf.toNat % 4 = 0)
    (hrun : s.status.running = true) : (bufferStart { s with fill := s.fill.begin fn fbuf }).Inv := by
  obtain ⟨hparam, hsnap, hfreq, henv, -, herr, ⟨hrate, hpos, -, -, -⟩, hmem⟩ := h
  have hsnap' := snapshot_legal s.nextDraw hparam hsnap
  obtain ⟨hfreq', -, -, -, -, -, ⟨-, hsus⟩, -⟩ := id hsnap'
  refine ⟨hparam, hsnap', holdFreq_wordIn hfreq hfreq', foldl_applyEvent_legal hsus henv s.evq,
    Nat.zero_le _, herr, ⟨hrate, hpos, fun hstop => ?_, fun _ => rfl, fun _ => ⟨Nat.zero_le _, halign⟩⟩, hmem⟩
  exact absurd hrun (by simp [show s.status.running = false from hstop])

/-- What an instruction can do keeps the invariant. -/
theorem State.Inv.effect (h : s.Inv) {i : Instr} {t : State} (he : Instr.Effect s i t) : t.Inv := by
  cases he with
  | setParam i p hp => exact h.setParam (hp h.1)
  | noteEvent i p hp e => exact (h.setParam (hp h.1)).noteEvent e
  | beginSession w hw => exact h.beginSession hw
  | badRate => exact h.raise _
  | stopIgnored => exact h
  | stopDeferred hfip => exact h.deferStop hfip
  | endSession hfip => exact h.endSession hfip
  | reply => exact h
  | clearConditions => exact h.clearConditions
  | fillStopped fn fbuf => exact h.fillStopped fn fbuf
  | bufferStart fn fbuf halign hrun => exact h.bufferStart halign hrun

/-- A frame updates the envelope by 1 / SRATE seconds, and the frame index it leaves is at most FN. -/
theorem State.Inv.frameNext (h : s.Inv) (hj : s.fill.fj.toNat < s.fill.fn.toNat) (w : Word) :
    (frameNext s (frameEnvelope s) w).Inv := by
  obtain ⟨hparam, hsnap, hfreq, henv, hevq, herr, ⟨hrate, hpos, hstopped, hpend, hfill⟩, hmem⟩ := h
  have hnext : (s.fill.fj + 1#32).toNat ≤ s.fill.fn.toNat := by bv_omega
  exact ⟨hparam, hsnap, hfreq, envUpdate_legal (one_div_nonneg.mpr hrate.2) _ _ _ henv, hevq, herr,
    ⟨hrate, hpos, hstopped, hpend, fun hfip => ⟨hnext, (hfill hfip).2⟩⟩, Memory.wf_writeWord _ _ hmem⟩

theorem State.Inv.silenceBadBuffer (h : s.Inv) : (silenceBadBuffer s).Inv := by
  unfold Machine.silenceBadBuffer
  split_ifs
  · exact (h.setMem (Memory.wf_writeZeros _ _ h.memWf)).raise _
  · exact h

theorem State.Inv.closeFill (h : s.Inv) : s.closeFill.Inv := by
  obtain ⟨hparam, hsnap, hfreq, henv, hevq, herr, ⟨hrate, hpos, hstopped, -, -⟩, hmem⟩ := h
  exact ⟨hparam, hsnap, hfreq, henv, hevq, herr,
    ⟨hrate, hpos, fun hstop => ⟨(hstopped hstop).1, rfl⟩, nofun, nofun⟩, hmem⟩

theorem State.Inv.bufferEnd (h : s.Inv) : (bufferEnd s).Inv := by
  rw [bufferEnd_eq]
  split_ifs
  · exact h.silenceBadBuffer.closeFill.endSession rfl
  · exact h.silenceBadBuffer.closeFill

theorem State.Inv.engineStep {R : Realization} {t : State} (hinv : s.Inv) (h : engineStep R s = .next t) :
    t.Inv := by
  rcases engineStep_cases R s with ⟨-, h'⟩ | ⟨-, hj, -, h'⟩ | ⟨-, -, -, h'⟩ | ⟨-, -, h'⟩ <;> rw [h'] at h
  · exact Host.Outcome.next.inj h ▸ hinv
  · exact Host.Outcome.next.inj h ▸ hinv.frameNext hj _
  · exact nomatch h
  · exact Host.Outcome.next.inj h ▸ hinv.bufferEnd

theorem State.Inv.stepOf {R : Realization} {t : State} (hinv : s.Inv) (h : stepOf R s = .next t) : t.Inv := by
  rcases stepOf_cases h with ⟨rest, -, h⟩ | ⟨-, rest, i, -, -, h⟩ | ⟨rest, c, rfl⟩
  · exact State.Inv.engineStep (s := { s with inputs := rest }) hinv h
  · exact State.Inv.effect (s := { s with inputs := rest }) hinv (exec_effect h)
  · exact State.Inv.raise (s := { s with inputs := rest }) hinv _

end Invariant

/-- Settles O54: every effect of an instruction, every engine step and every recorded condition keeps the
invariant. -/
theorem everyStepKeepsTheInvariant : Obligations.EveryStepKeepsTheInvariant :=
  ⟨fun _ _ hinv h => hinv.stepOf h, fun _ _ _ hinv h => hinv.stepOf h⟩

end Sys2Proof.Machine

/-! PROOFS. The decoder reads back the encoder's words (30_encoding.md R84, R85, R90), and a port over a
byte stream (20_memory.md R63). -/

namespace Sys2Proof

/-! ### The fields of a packed command word (30_encoding.md R81, R90) -/

@[simp] theorem opField_packWord (op a b z : Byte) : opField (packWord op a b z) = op :=
  (BitVec.extractLsb'_append_eq_of_le (by decide)).trans BitVec.extractLsb'_append_eq_left

@[simp] theorem aField_packWord (op a b z : Byte) : aField (packWord op a b z) = a :=
  (BitVec.extractLsb'_append_eq_of_le (by decide)).trans BitVec.extractLsb'_append_eq_right

@[simp] theorem bField_packWord (op a b z : Byte) : bField (packWord op a b z) = b :=
  (BitVec.extractLsb'_append_eq_of_add_le (by decide)).trans BitVec.extractLsb'_append_eq_left

@[simp] theorem zField_packWord (op a b z : Byte) : zField (packWord op a b z) = z :=
  (BitVec.extractLsb'_append_eq_of_add_le (by decide)).trans BitVec.extractLsb'_append_eq_right

@[simp] theorem opcodeOf_code (o : Opcode) : opcodeOf o.code = some o := by cases o <;> rfl

/-! ### Decoding an encoding (30_encoding.md R85, R90) -/

/-- A packed command word that passes the decoder's second and third check. -/
theorem decodeControl_packWord {o : Opcode} {a b : Byte} (ow : Word)
    (hzero : reservedZero o.format a b 0#8 = true) (hrange : fieldsInRange o a b = true) :
    decodeControl (packWord o.code a b 0#8) ow = .ok (assemble o a b ow) := by
  simp [decodeControl, hzero, hrange]

/-- A word of format CFA: the fields it does not use are 0. -/
theorem decodeControl_wordWithA {o : Opcode} {a : Byte} (ow : Word) (ha : o.format.usesA = true)
    (hrange : fieldsInRange o a 0#8 = true) :
    decodeControl (wordWithA o a) ow = .ok (assemble o a 0#8 ow) :=
  decodeControl_packWord ow (by simp [reservedZero, ha]) hrange

/-- A word of format CF0 or CFW: all fields are 0, which every check allows. -/
theorem decodeControl_plainWord (o : Opcode) (ow : Word) :
    decodeControl (plainWord o) ow = .ok (assemble o 0#8 0#8 ow) :=
  decodeControl_packWord ow (by simp [reservedZero]) (by cases o <;> rfl)

/-- The encoder leaves unused fields 0, and a well-formed instruction's operands are in the ranges that the
decoder checks. -/
theorem decode_encode {i : Instr} (h : i.wf = true) : decode (encode i) = .ok i := by
  cases i with
  | noteOn note vel => exact decodeControl_packWord (o := .noteOn) _ rfl h
  | noteOff | gateOn | setWave | setVoices | setOsr | getReg =>
    exact decodeControl_wordWithA _ rfl h
  | gateOff | setFreq | setDetune | setAttack | setDecay | setSustain | setRelease | setAlpha
  | setStrength | streamStart | streamStop | clrStatus =>
    simp only [encode, decode, decodeControl_plainWord, assemble]
  | fill fn fbuf => rfl

/-! ### A port over a byte stream (20_memory.md R63; log entry 15) -/

/-- A port reads an instruction from the bytes of its encoding's two words, and leaves the rest. -/
theorem decodeStream_bytesOfWord {port : Port} {w0 w1 : Word} {i : Instr} (hwf : i.wf = true)
    (henc : encode i = port.transaction w0 w1) (rest : List Byte) :
    decodeStream port (bytesOfWord w0 ++ bytesOfWord w1 ++ rest) = .ok (i, rest) := by
  have hdec : decode (port.transaction w0 w1) = .ok i := henc ▸ decode_encode hwf
  simp [decodeStream, bytesOfWord, hdec]

/-- Settles O7, one port at a time. -/
theorem commandBytesDecodeLittleEndian : Obligations.CommandBytesDecodeLittleEndian :=
  fun _ _ _ rest hwf =>
    ⟨fun henc => decodeStream_bytesOfWord (port := .control) hwf henc rest,
      fun henc => decodeStream_bytesOfWord (port := .audio) hwf henc rest⟩

end Sys2Proof

/-! PROOFS. The two ports and the buffer (20_memory.md R61 to R76): register reads, engine turns, the
completion of commands, the refusals of FILL, and what the host reads. -/

namespace Sys2Proof.Machine

/-! ### Engine turns (20_memory.md R67; log entries 1, 7 and 13) -/

theorem stepOf_of_engineTurn (R : Realization) {s : State} {rest : List Input}
    (h : s.inputs = .engineTurn :: rest) : stepOf R s = engineStep R { s with inputs := rest } := by
  simp [stepOf, State.nextInput, h]

theorem stepOf_of_no_input (R : Realization) {s : State} (h : s.inputs = []) :
    stepOf R s = engineStep R s := by
  simp [stepOf, State.nextInput, h]

/-- Settles O3: the next input chooses the branch, and the reference is the realization `step` runs. -/
theorem engineTurnIsOneEngineStep : Obligations.EngineTurnIsOneEngineStep :=
  ⟨fun R _ _ h => stepOf_of_engineTurn R h, fun R _ h => stepOf_of_no_input R h, fun _ => rfl⟩

/-! ### The words of STATUS and ENVSTAT (10_state.md R35, R47) -/

theorem toNat_append_eq_add {m n : Nat} (x : BitVec m) (y : BitVec n) :
    (x ++ y).toNat = x.toNat * 2 ^ n + y.toNat := by
  rw [BitVec.toNat_append, ← Nat.shiftLeft_add_eq_or_of_lt y.isLt, Nat.shiftLeft_eq]

theorem statusWord_toNat (st : Status) (stopPend : Bool) :
    (statusWord st stopPend).toNat
      = st.running.toNat + 2 * st.badCmd.toNat + 4 * st.evqOvf.toNat + 8 * st.setupErr.toNat
        + 16 * st.silenced.toNat + 32 * st.fillIdle.toNat + 64 * stopPend.toNat := by
  simp only [statusWord, toNat_append_eq_add, BitVec.toNat_ofBool, BitVec.toNat_zero]
  ring

theorem envStatWord_toNat (e : Envelope) :
    (envStatWord e).toNat
      = (stageCode e.stage).toNat + 8 * e.noteValid.toNat + 16 * e.stage.triggered.toNat
        + 32 * e.stage.processing.toNat + 64 * e.stage.released.toNat + 256 * e.note.toNat := by
  simp only [envStatWord, toNat_append_eq_add, BitVec.toNat_ofBool, BitVec.toNat_zero]
  ring

/-! ### GET_REG (20_memory.md R61, R62; 44_control.md R238) -/

theorem readReg_reserved (s : State) {idx : Byte} (h : 0x14 ≤ idx.toNat) :
    readReg idx s = 0x00000000#32 := by
  obtain ⟨k, hk⟩ := Nat.exists_eq_add_of_le' h
  unfold readReg
  rw [hk]
  rfl

/-- Settles O18: the reply is the register's word. A register narrower than a word is zero-extended, and the
bits of STATUS and ENVSTAT add up to their words. -/
theorem getRegRepliesTheRegister : Obligations.GetRegRepliesTheRegister := by
  intro s idx
  have hbit (b : Bool) : (if b = true then 1 else 0) = b.toNat := by cases b <;> rfl
  simp only [hbit]
  refine ⟨readReg idx s, rfl, ?freq, ?wave, ?voices, ?detune, ?attack, ?decay, ?sustain, ?release, ?osr,
    ?alpha, ?strength, ?srate, ?status, ?lastErr, ?envStat, ?envValue, ?n, ?lastFreq, ?evqLength, ?id,
    readReg_reserved s⟩ <;> rintro rfl
  case wave =>
    show ((waveCode s.param.voiceGroup.wave).zeroExtend 32).toNat = _
    cases s.param.voiceGroup.wave <;> rfl
  case voices => exact BitVec.toNat_setWidth_of_le (by decide)
  case osr => exact BitVec.toNat_setWidth_of_le (by decide)
  case lastErr => exact BitVec.toNat_setWidth_of_le (by decide)
  case status => exact statusWord_toNat s.status s.fill.stopPend
  case envStat =>
    refine (envStatWord_toNat s.env).trans ?_
    cases s.env.stage <;> rfl
  all_goals rfl

/-! ### Completion of the control commands (20_memory.md R70, 44_control.md R220) -/

/-- A choice between two outcomes that answer a next state. -/
theorem exists_next_ite {c : Prop} [Decidable c] {x y : Host.Outcome State Fault Refusal}
    (hx : ∃ t, x = .next t) (hy : ∃ t, y = .next t) : ∃ t, (if c then x else y) = .next t := by
  split_ifs
  · exact hx
  · exact hy

/-- Settles O20: four commands choose between next states, and the others have one. -/
theorem everyControlCommandCompletes : Obligations.EveryControlCommandCompletes := by
  intro i s hcontrol
  cases i with
  | fill fn fbuf => exact absurd rfl (hcontrol fn fbuf)
  | noteOn | setDetune | streamStart => exact exists_next_ite ⟨_, rfl⟩ ⟨_, rfl⟩
  | streamStop => exact exists_next_ite (exists_next_ite ⟨_, rfl⟩ ⟨_, rfl⟩) ⟨_, rfl⟩
  | noteOff | gateOn | gateOff | setFreq | setWave | setVoices | setAttack | setDecay | setSustain
  | setRelease | setOsr | setAlpha | setStrength | getReg | clrStatus => exact ⟨_, rfl⟩

/-! ### The refusals of FILL (20_memory.md R64, 70_reset_and_hazards.md R293; log entry 11) -/

theorem execFill_of_misaligned {fbuf : Word} (h : fbuf.toNat % 4 ≠ 0) (fn : Word) (s : State) :
    execFill fn fbuf s = .refused .fillMisaligned := if_pos h

theorem execFill_of_outstanding {fbuf : Word} (halign : fbuf.toNat % 4 = 0) {s : State}
    (hfip : s.fill.fip = true) (fn : Word) : execFill fn fbuf s = .refused .fillOutstanding := by
  rw [execFill, if_neg (not_not_intro halign), if_pos hfip]

/-- Settles O23: alignment is tested first, then the FILL in progress. -/
theorem fillInBreachOfAHostDutyIsRefused : Obligations.FillInBreachOfAHostDutyIsRefused :=
  fun s fn _ => ⟨fun h => execFill_of_misaligned h fn s,
    fun halign hfip => execFill_of_outstanding halign hfip fn⟩

/-! ### What the host reads (20_memory.md R76; log entry 9) -/

/-- Without a FILL in progress no address is in flight. -/
theorem FillCtx.owns_of_not_fip {f : FillCtx} (h : f.fip = false) (a : Nat) : f.owns a = false := by
  simp [FillCtx.owns, h]

/-- Settles O30: outside a buffer in flight the host reads memory. -/
theorem afterCompletionTheHostReadsTheBuffer : Obligations.AfterCompletionTheHostReadsTheBuffer := by
  intro s a hfip
  simp [State.hostByte, FillCtx.owns_of_not_fip hfip]

end Sys2Proof.Machine

/-! PROOFS. The fields of a command word and the checks of the decoder (30_encoding.md R81 to R90): the
decoder reads back every encoding, a command it reads has no other encoding, and the checks are made in
order on the bits of the command word. -/

namespace Sys2Proof

/-! ### The encoder's words (30_encoding.md R84, R90) -/

/-- Settles O4: the decoder inverts the encoder on well-formed instructions. -/
theorem decodeOfEncodeIsTheInstruction : Obligations.DecodeOfEncodeIsTheInstruction :=
  fun _ hwf => decode_encode hwf

/-- Settles O6: the spec's words are encodings of R84, which the decoder reads back. -/
theorem decoderReadsTheSpecsWords : Obligations.DecoderReadsTheSpecsWords :=
  ⟨decode_encode (i := .noteOn 69#8 100#8) rfl, decode_encode (i := .noteOff 72#8) rfl,
    decode_encode (i := .gateOn 0x80#8) rfl, decode_encode (i := .setFreq 0x43DC0000#32) rfl,
    decode_encode (i := .setRelease 0x3E4CCCCD#32) rfl,
    decode_encode (i := .streamStart 0x472C4400#32) rfl, decode_encode (i := .getReg 0x0C#8) rfl,
    decode_encode (i := .fill 256#32 64#32) rfl⟩

/-! ### The fields of a command word (30_encoding.md R81) -/

theorem toNat_opField (cw : Word) : (opField cw).toNat = cw.toNat / 2 ^ 24 := by
  rw [opField, BitVec.extractLsb'_toNat, Nat.shiftRight_eq_div_pow]
  exact Nat.mod_eq_of_lt (by omega)

theorem toNat_aField (cw : Word) : (aField cw).toNat = cw.toNat / 2 ^ 16 % 256 := by
  rw [aField, BitVec.extractLsb'_toNat, Nat.shiftRight_eq_div_pow]

theorem toNat_bField (cw : Word) : (bField cw).toNat = cw.toNat / 2 ^ 8 % 256 := by
  rw [bField, BitVec.extractLsb'_toNat, Nat.shiftRight_eq_div_pow]

theorem toNat_zField (cw : Word) : (zField cw).toNat = cw.toNat % 256 := by
  rw [zField, BitVec.extractLsb'_toNat, Nat.shiftRight_zero]

/-- A command word is its four fields (R90). -/
theorem packWord_fields (cw : Word) :
    packWord (opField cw) (aField cw) (bField cw) (zField cw) = cw := by
  have hhigh : opField cw ++ aField cw = cw.extractLsb' 16 16 :=
    BitVec.extractLsb'_append_extractLsb'_eq_extractLsb' rfl
  have hlow : bField cw ++ zField cw = cw.extractLsb' 0 16 :=
    BitVec.extractLsb'_append_extractLsb'_eq_extractLsb' rfl
  have hword : cw.extractLsb' 16 16 ++ cw.extractLsb' 0 16 = cw.extractLsb' 0 32 :=
    BitVec.extractLsb'_append_extractLsb'_eq_extractLsb' rfl
  rw [packWord, hhigh, hlow, hword, BitVec.extractLsb'_eq_self]

/-! ### The opcode map read backwards (30_encoding.md R84, R86) -/

/-- No two bytes are assigned to one opcode. -/
theorem eq_code_of_opcodeOf {op : Byte} {o : Opcode} (h : opcodeOf op = some o) : op = o.code := by
  unfold opcodeOf at h
  split at h <;> cases h <;> exact BitVec.eq_of_toNat_eq ‹_›

/-- The illegal OP bytes are those outside the nineteen assigned codes (R86). -/
theorem opcodeOf_eq_none_iff {op : Byte} :
    opcodeOf op = none
      ↔ op.toNat ∉ [0x01, 0x02, 0x03, 0x04, 0x10, 0x11, 0x12, 0x13, 0x14, 0x15, 0x16, 0x17, 0x18, 0x19,
          0x1A, 0x20, 0x21, 0x30, 0x31] := by
  unfold opcodeOf
  split <;> simp_all

/-! ### The checks of the decoder (30_encoding.md R85) -/

theorem decodeControl_of_unassigned {cw : Word} (ow : Word) (h : opcodeOf (opField cw) = none) :
    decodeControl cw ow = .error .badOpcode := by
  simp [decodeControl, h]

/-- With an assigned OP the second and the third check decide. -/
theorem decodeControl_of_assigned {cw : Word} {o : Opcode} (ow : Word)
    (h : opcodeOf (opField cw) = some o) :
    decodeControl cw ow
      = if reservedZero o.format (aField cw) (bField cw) (zField cw) then
          if fieldsInRange o (aField cw) (bField cw) then .ok (assemble o (aField cw) (bField cw) ow)
          else .error .badField
        else .error .rsvNonzero := by
  simp [decodeControl, h]

/-- What a command word that decodes has passed, and what it is decoded to. -/
theorem decodeControl_eq_ok {cw ow : Word} {i : Instr} (h : decodeControl cw ow = .ok i) :
    ∃ o : Opcode, opField cw = o.code
      ∧ reservedZero o.format (aField cw) (bField cw) (zField cw) = true
      ∧ fieldsInRange o (aField cw) (bField cw) = true
      ∧ i = assemble o (aField cw) (bField cw) ow := by
  cases ho : opcodeOf (opField cw) with
  | none => simp [decodeControl_of_unassigned ow ho] at h
  | some o =>
    rw [decodeControl_of_assigned ow ho] at h
    split_ifs at h with hzero hrange
    exact ⟨o, eq_code_of_opcodeOf ho, hzero, hrange, (Except.ok.inj h).symm⟩

theorem reservedZero_iff {f : Format} {a b z : Byte} :
    reservedZero f a b z = true
      ↔ z = 0#8 ∧ (f.usesA = false → a = 0#8) ∧ (f.usesB = false → b = 0#8) := by
  cases f <;> simp [reservedZero, Format.usesA, Format.usesB, and_assoc]

/-- The second check, with the opcodes that use no A or no B by their codes (30_encoding.md R82, R84). -/
theorem reservedZero_format_iff {o : Opcode} {a b z : Byte} :
    reservedZero o.format a b z = true
      ↔ ¬ (z.toNat ≠ 0
        ∨ (o.code.toNat ∈ [0x04, 0x10, 0x13, 0x14, 0x15, 0x16, 0x17, 0x19, 0x1A, 0x20, 0x21, 0x31]
            ∧ a.toNat ≠ 0)
        ∨ (o.code.toNat ≠ 0x01 ∧ b.toNat ≠ 0)) := by
  have hA : o.format.usesA = false
      ↔ o.code.toNat ∈ [0x04, 0x10, 0x13, 0x14, 0x15, 0x16, 0x17, 0x19, 0x1A, 0x20, 0x21, 0x31] := by
    cases o <;> decide
  have hB : o.format.usesB = false ↔ o.code.toNat ≠ 0x01 := by cases o <;> decide
  have hzero (x : Byte) : x = 0#8 ↔ x.toNat = 0 := BitVec.toNat_inj.symm
  rw [reservedZero_iff, hA, hB, hzero, hzero, hzero]
  tauto

/-- The third check, with the opcodes that have a range by their codes (30_encoding.md R83, R84). -/
theorem fieldsInRange_iff {o : Opcode} {a b : Byte} :
    fieldsInRange o a b = true
      ↔ ¬ ((o.code.toNat = 0x01 ∧ (127 < a.toNat ∨ 127 < b.toNat))
        ∨ (o.code.toNat = 0x02 ∧ 127 < a.toNat) ∨ (o.code.toNat = 0x11 ∧ 3 < a.toNat)) := by
  cases o <;> simp [fieldsInRange, Opcode.code]

/-! ### Encoding what was decoded (30_encoding.md R82, R87, R90) -/

/-- The third check is the range of an instruction's operands (R83, R88). -/
theorem wf_assemble (o : Opcode) (a b : Byte) (ow : Word) :
    (assemble o a b ow).wf = fieldsInRange o a b := by
  cases o <;> rfl

/-- The encoder puts back the fields a format uses, and the second check says that the others are 0. -/
theorem encode_assemble {o : Opcode} {a b z : Byte} (ow : Word)
    (h : reservedZero o.format a b z = true) :
    encode (assemble o a b ow)
      = .control (packWord o.code a b z) (if o.format = .cfw then ow else 0#32) := by
  obtain ⟨rfl, ha, hb⟩ := reservedZero_iff.mp h
  cases o with
  | noteOn => rfl
  | noteOff | gateOn | setWave | setVoices | setOsr | getReg =>
    obtain rfl := hb rfl
    rfl
  | gateOff | setFreq | setDetune | setAttack | setDecay | setSustain | setRelease | setAlpha
  | setStrength | streamStart | streamStop | clrStatus =>
    obtain rfl := ha rfl
    obtain rfl := hb rfl
    rfl

/-- The nine opcodes of format CFW, by their codes (R84). -/
theorem Opcode.format_eq_cfw_iff (o : Opcode) :
    o.format = .cfw
      ↔ o.code.toNat ∈ [0x10, 0x13, 0x14, 0x15, 0x16, 0x17, 0x19, 0x1A, 0x20] := by
  cases o <;> decide

/-- Settles O5: the checks that a decoded word has passed are what makes its encoding unique. -/
theorem decodedCommandEncodesToItsWords : Obligations.DecodedCommandEncodesToItsWords := by
  intro cw ow i hdec
  obtain ⟨o, hcode, hzero, hrange, rfl⟩ := decodeControl_eq_ok hdec
  refine ⟨(wf_assemble o _ _ ow).trans hrange, ?_⟩
  rw [encode_assemble ow hzero, ← hcode, packWord_fields]
  simp only [o.format_eq_cfw_iff, ← hcode, toNat_opField]

/-! ### The step of a control transaction (30_encoding.md R85) -/

/-- Settles O2: each check of the statement is the decoder's check of that place. -/
theorem controlTransactionIsCheckedInOrder : Obligations.ControlTransactionIsCheckedInOrder := by
  intro s cw ow rest h
  simp only [← toNat_opField, ← toNat_aField, ← toNat_bField, ← toNat_zField, BitVec.ofNat_toNat,
    BitVec.setWidth_eq]
  cases ho : opcodeOf (opField cw) with
  | none =>
    rw [if_pos (opcodeOf_eq_none_iff.mp ho)]
    exact Machine.step_of_malformed h (decodeControl_of_unassigned ow ho)
  | some o =>
    have hdec := decodeControl_of_assigned ow ho
    have hassigned := mt opcodeOf_eq_none_iff.mpr (ho ▸ Option.some_ne_none o)
    rw [if_neg hassigned, eq_code_of_opcodeOf ho]
    split_ifs with hzero hrange
    · rw [if_neg (mt reservedZero_format_iff.mp (not_not_intro hzero))] at hdec
      exact Machine.step_of_malformed h hdec
    · rw [if_pos (reservedZero_format_iff.mpr hzero),
        if_neg (mt fieldsInRange_iff.mp (not_not_intro hrange))] at hdec
      exact Machine.step_of_malformed h hdec
    · rw [if_pos (reservedZero_format_iff.mpr hzero), if_pos (fieldsInRange_iff.mpr hrange)] at hdec
      refine (Machine.step_of_decoded h hdec).trans ?_
      cases o <;> rfl

end Sys2Proof

/-! PROOFS. The oscillator and the mixer over the reals (40_oscillator.md R100 to R114, 41_unison.md R130),
for any sine and any 2^x (R113): the waveforms, the filter and the mean in formulas, and their range. -/

namespace Sys2Proof.Machine

/-! ### The sine enclosure (40_oscillator.md R106) -/

/-- Settles O42: the phase is a signed angle of the first quarter turn, whose sine an alternating series
encloses. -/
theorem sineEnclosureHoldsTheSine : Obligations.SineEnclosureHoldsTheSine :=
  sinPoint_encloses

/-! ### The waveforms (40_oscillator.md R103 to R106) -/

/-- The waveforms over the reals, for a sine of turns and an amplitude of the square. -/
noncomputable def waveform (sinTurns : ℝ → ℝ) (amp : ℝ) (kind : WaveKind) (φ : ℝ) : ℝ :=
  match kind with
  | .sine => sinTurns φ
  | .triangle => 1 - |2 * φ - 1|
  | .square => if φ < 1 / 2 then amp else -amp
  | .sawtooth => 2 * φ - 1

/-- The least value of a waveform: a triangle is unipolar (R103). -/
def lowest : WaveKind → ℝ
  | .triangle => 0
  | _ => -1

theorem lowest_mem (kind : WaveKind) : lowest kind ∈ Set.Icc (-1 : ℝ) 0 := by
  cases kind <;> simp [lowest]

theorem raw_realized (s e : ℝ → ℝ) (kind : WaveKind) (φ : ℝ) (aa : Bool) :
    raw (Numerics.realized s e) kind φ aa = waveform s (if aa then 4 / 5 else 1) kind φ := by
  cases kind with
  | sine => rfl
  | triangle => simp [raw, waveform, Numerics.realized, Numerics.real]
  | square =>
    have hamp : ((Config.sqAaAmpl : Rat) : ℝ) = 4 / 5 := by norm_num [Config.sqAaAmpl, Rat.mkRat_eq_div]
    cases aa <;> simp [raw, waveform, Numerics.realized, Numerics.real, hamp]
  | sawtooth => simp [raw, waveform, Numerics.realized, Numerics.real]

theorem oscSample_realized_direct (s e : ℝ → ℝ) (kind : WaveKind) (f : ℝ) (t sr al st : Rat) :
    oscSample (Numerics.realized s e) kind f t sr 1 al st = waveform s 1 kind (Int.fract (f * t)) :=
  raw_realized s e kind _ false

/-- The value at sub-step k in anti-aliasing mode (R107). -/
theorem subSample_realized (s e : ℝ → ℝ) (kind : WaveKind) (f : ℝ) (t sr : Rat) (r k : Nat) :
    subSample (Numerics.realized s e) kind f t sr r k
      = waveform s (4 / 5) kind (Int.fract (f * ((t : ℝ) + (k : ℝ) / ((r : ℝ) * (sr : ℝ))))) := by
  have htime : ((t + (k : Rat) / ((r : Rat) * sr) : Rat) : ℝ) = t + k / (r * sr) := by push_cast; rfl
  rw [← htime]
  exact raw_realized s e kind _ true

/-! ### The filter, the smoothing and the mean (40_oscillator.md R108 to R110) -/

/-- The states of the one-pole low-pass filter over the inputs x (R108). -/
def lowPass (al : ℝ) (x : Nat → ℝ) : Nat → ℝ
  | 0 => x 0
  | k + 1 => lowPass al x k + al * (x (k + 1) - lowPass al x k)

/-- The saturating smoothing of a filter state (R109). -/
noncomputable def smooth (st p : ℝ) : ℝ := min (max (p * (1 - |p| * st)) (-1)) 1

theorem eq_lowPass {al : ℝ} {x p : Nat → ℝ} (h0 : p 0 = x 0)
    (hstep : ∀ k, p (k + 1) = p k + al * (x (k + 1) - p k)) : p = lowPass al x := by
  funext k
  induction k with
  | zero => exact h0
  | succ k ih => rw [hstep, ih, lowPass]

/-- The filter starts from its first input, which it keeps (R108). -/
theorem lowPass_step (al : ℝ) (x : Nat → ℝ) (n : Nat) :
    lowPass al x (n - 1) + al * (x n - lowPass al x (n - 1)) = lowPass al x n := by
  cases n with
  | zero => simp [lowPass]
  | succ n => rfl

theorem filterStep_realized (s e : ℝ → ℝ) (al st : Rat) (p acc x : ℝ) :
    filterStep (Numerics.realized s e) al st (p, acc) x
      = (p + al * (x - p), acc + smooth st (p + al * (x - p))) := by
  simp [filterStep, smooth, Numerics.realized, Numerics.real]

theorem foldl_filterStep_realized (s e : ℝ → ℝ) (al st : Rat) (x : Nat → ℝ) (n : Nat) :
    ((List.range n).map x).foldl (filterStep (Numerics.realized s e) al st) (x 0, 0)
      = (lowPass al x (n - 1), ∑ k ∈ Finset.range n, smooth st (lowPass al x k)) := by
  induction n with
  | zero => rfl
  | succ n ih =>
    rw [List.range_succ, List.map_append, List.foldl_append, ih, Finset.sum_range_succ]
    simp only [List.map_cons, List.map_nil, List.foldl_cons, List.foldl_nil, filterStep_realized,
      lowPass_step, Nat.add_sub_cancel]

/-- In anti-aliasing mode the sample is the mean of the smoothed filter states. -/
theorem oscSample_realized_filtered (s e : ℝ → ℝ) (kind : WaveKind) (f : ℝ) (t sr : Rat) {r : Nat}
    (hr : r ≠ 1) (al st : Rat) :
    oscSample (Numerics.realized s e) kind f t sr r al st
      = (∑ k ∈ Finset.range r,
          smooth st (lowPass al (subSample (Numerics.realized s e) kind f t sr r) k)) / r := by
  have hfold := foldl_filterStep_realized s e al st (subSample (Numerics.realized s e) kind f t sr r) r
  have hzero : (Numerics.realized s e).exact 0 = 0 := Rat.cast_zero
  rw [oscSample, if_neg hr]
  dsimp only
  rw [hzero, hfold]
  exact congrArg (_ / ·) (Rat.cast_natCast r)

/-! ### The range of the oscillator (40_oscillator.md R112) -/

theorem waveform_mem {s : ℝ → ℝ} (hs : ∀ φ, 0 ≤ φ → φ < 1 → -1 ≤ s φ ∧ s φ ≤ 1) {amp : ℝ}
    (hamp : amp ∈ Set.Icc (0 : ℝ) 1) (kind : WaveKind) (y : ℝ) :
    waveform s amp kind (Int.fract y) ∈ Set.Icc (lowest kind) 1 := by
  have h0 := Int.fract_nonneg y
  have h1 := Int.fract_lt_one y
  obtain ⟨hamp0, hamp1⟩ := hamp
  cases kind with
  | sine => exact hs _ h0 h1
  | triangle =>
    have habs : |2 * Int.fract y - 1| ≤ 1 := abs_le.mpr ⟨by linarith, by linarith⟩
    exact ⟨sub_nonneg.mpr habs, sub_le_self 1 (abs_nonneg _)⟩
  | square =>
    refine iteInduction (motive := (· ∈ Set.Icc (-1 : ℝ) 1)) (fun _ => ?_) fun _ => ?_
    · exact ⟨by linarith, hamp1⟩
    · exact ⟨by linarith, by linarith⟩
  | sawtooth =>
    change -1 ≤ 2 * Int.fract y - 1 ∧ 2 * Int.fract y - 1 ≤ 1
    exact ⟨by linarith, by linarith⟩

/-- Each filter state is a convex combination of inputs. -/
theorem lowPass_mem {S : Set ℝ} (hS : Convex ℝ S) {al : ℝ} (hal : al ∈ Set.Icc (0 : ℝ) 1) {x : Nat → ℝ}
    (hx : ∀ k, x k ∈ S) (k : Nat) : lowPass al x k ∈ S := by
  induction k with
  | zero => exact hx 0
  | succ k ih => exact hS.add_smul_sub_mem ih (hx (k + 1)) hal

/-- Smoothing scales by a factor of [0, 1] and so leaves no interval about 0. -/
theorem smooth_mem {lo st p : ℝ} (hlo : lo ∈ Set.Icc (-1 : ℝ) 0) (hst : st ∈ Set.Icc (0 : ℝ) 1)
    (hp : p ∈ Set.Icc lo 1) : smooth st p ∈ Set.Icc lo 1 := by
  have habs : |p| ≤ 1 := abs_le.mpr ⟨hlo.1.trans hp.1, hp.2⟩
  have hfactor : 1 - |p| * st ∈ Set.Icc (0 : ℝ) 1 :=
    ⟨sub_nonneg.mpr (mul_le_one₀ habs hst.1 hst.2), sub_le_self 1 (mul_nonneg (abs_nonneg p) hst.1)⟩
  have hscaled : p * (1 - |p| * st) ∈ Set.Icc lo 1 := by
    have hconv := (convex_Icc lo 1).smul_mem_of_zero_mem ⟨hlo.2, zero_le_one⟩ hp hfactor
    rwa [smul_eq_mul, mul_comm] at hconv
  exact ⟨le_min (hscaled.1.trans (le_max_left _ _)) (hlo.2.trans zero_le_one), min_le_right _ _⟩

theorem mean_mem {S : Set ℝ} (hS : Convex ℝ S) {x : Nat → ℝ} (hx : ∀ k, x k ∈ S) {n : Nat} (hn : 1 ≤ n) :
    (∑ k ∈ Finset.range n, x k) / n ∈ S := by
  have hn' : (n : ℝ) ≠ 0 := by positivity
  have h := hS.sum_mem (t := Finset.range n) (w := fun _ => (n : ℝ)⁻¹) (z := x) (fun _ _ => by positivity)
    (by simp [hn']) (fun k _ => hx k)
  rwa [← Finset.smul_sum, smul_eq_mul, ← div_eq_inv_mul] at h

/-- A sample lies in [-1, 1], of a triangle in [0, 1], for every sine of that range (SIN_RANGE). -/
theorem oscSample_realized_mem {s : ℝ → ℝ} (hs : ∀ φ, 0 ≤ φ → φ < 1 → -1 ≤ s φ ∧ s φ ≤ 1) (e : ℝ → ℝ)
    (kind : WaveKind) (f : ℝ) (t sr : Rat) {r : Nat} (hr : 1 ≤ r) {al st : Rat} (hal0 : 0 ≤ al)
    (hal1 : al ≤ 1) (hst0 : 0 ≤ st) (hst1 : st ≤ 1 / 2) :
    oscSample (Numerics.realized s e) kind f t sr r al st ∈ Set.Icc (lowest kind) 1 := by
  have hal : (al : ℝ) ∈ Set.Icc (0 : ℝ) 1 := ⟨by exact_mod_cast hal0, by exact_mod_cast hal1⟩
  have hst : (st : ℝ) ∈ Set.Icc (0 : ℝ) 1 :=
    ⟨by exact_mod_cast hst0, by exact_mod_cast hst1.trans (by norm_num)⟩
  by_cases hr1 : r = 1
  · rw [hr1, oscSample_realized_direct]
    exact waveform_mem hs ⟨zero_le_one, le_rfl⟩ kind _
  · have hsub (k : Nat) : subSample (Numerics.realized s e) kind f t sr r k ∈ Set.Icc (lowest kind) 1 := by
      rw [subSample_realized]
      exact waveform_mem hs (by norm_num) kind _
    rw [oscSample_realized_filtered s e kind f t sr hr1]
    exact mean_mem (convex_Icc _ _)
      (fun k => smooth_mem (lowest_mem kind) hst (lowPass_mem (convex_Icc _ _) hal hsub k)) hr

/-- The exact reals are the realization whose sine and 2^x are exact. -/
theorem Numerics.real_eq_realized :
    Numerics.real = Numerics.realized (fun φ => Real.sin (2 * Real.pi * φ)) (fun x => (2 : ℝ) ^ x) := rfl

/-- Settles O47: over the exact reals the sample is a waveform, or the mean of the smoothed filter states,
and each of these stays in the range of its waveform. -/
theorem oscillatorStaysInRange : Obligations.OscillatorStaysInRange := by
  intro kind f t sr r al st hr _ hal0 hal1 hst0 hst1
  have hmem := oscSample_realized_mem (fun φ _ _ => ⟨Real.neg_one_le_sin (2 * Real.pi * φ),
    Real.sin_le_one _⟩) (fun x => (2 : ℝ) ^ x) kind f t sr hr hal0 hal1 hst0 hst1
  rw [← Numerics.real_eq_realized] at hmem
  refine ⟨⟨(lowest_mem kind).1.trans hmem.1, hmem.2⟩, fun hk => ?_, fun hr1 => ?_, fun hr1 p h0 hp => ?_⟩
  · subst hk
    exact hmem.1
  · subst hr1
    rw [if_pos rfl]
    exact oscSample_realized_direct _ _ kind f t sr al st
  · rw [if_neg hr1] at h0 hp
    have hsub := subSample_realized (fun φ => Real.sin (2 * Real.pi * φ)) (fun x => (2 : ℝ) ^ x) kind f t sr r
    have hstates : p = lowPass al (subSample Numerics.real kind f t sr r) :=
      eq_lowPass (h0.trans (hsub 0).symm)
        fun k => (hp k).trans (congrArg (fun y => p k + al * (y - p k)) (hsub (k + 1)).symm)
    rw [hstates]
    exact oscSample_realized_filtered _ _ kind f t sr hr1 al st

/-! ### The mix of a realization (40_oscillator.md R113, 41_unison.md R130) -/

theorem one_le_validateUnison (v : Nat) (d : Word) : 1 ≤ (validateUnison v d).1 := by
  unfold validateUnison
  split
  · exact le_min (le_max_right v 1) (by decide)
  · exact le_rfl

/-- The sum of the voices. -/
theorem foldl_add_realized (s e : ℝ → ℝ) (x : Nat → ℝ) (n : Nat) :
    ((List.range n).map x).foldl (Numerics.realized s e).add ((Numerics.realized s e).exact 0)
      = ∑ i ∈ Finset.range n, x i := by
  induction n with
  | zero => exact Rat.cast_zero
  | succ n ih =>
    rw [List.range_succ, List.map_append, List.foldl_append, ih, Finset.sum_range_succ]
    rfl

/-- The mix is one voice or the mean of several, so it lies in every convex set that holds each voice. -/
theorem mixVoices_realized_mem {S : Set ℝ} (hS : Convex ℝ S) {s e : ℝ → ℝ} {kind : WaveKind} {t sr : Rat}
    {r : Nat} {al st : Rat} (h : ∀ f, oscSample (Numerics.realized s e) kind f t sr r al st ∈ S) (f : ℝ)
    (v : Nat) (d : Word) : mixVoices (Numerics.realized s e) f kind v d t sr r al st ∈ S := by
  have hv := one_le_validateUnison v d
  unfold mixVoices
  generalize validateUnison v d = u at hv
  obtain ⟨n, q⟩ := u
  dsimp only
  split
  · exact h f
  · have hmean := mean_mem hS (fun i => h (f * e (voiceOffset n q i / 1200 : Rat))) hv
    rw [foldl_add_realized]
    rwa [← Rat.cast_natCast] at hmean

/-- Settles O51: both clauses are convex conditions on the mix, and each voice meets them. -/
theorem realizedMixStaysInRange : Obligations.RealizedMixStaysInRange := by
  intro s e tol hnamed kind f v d t sr r al st hr _ hal0 hal1 hst0 hst1
  refine ⟨?_, ?_⟩
  · have hvoice (g : ℝ) : oscSample (Numerics.realized s e) kind g t sr r al st ∈ Set.Icc (-1 : ℝ) 1 := by
      obtain ⟨hlo, hhi⟩ := oscSample_realized_mem hnamed.sinRange e kind g t sr hr hal0 hal1 hst0 hst1
      exact ⟨(lowest_mem kind).1.trans hlo, hhi⟩
    exact mixVoices_realized_mem (convex_Icc _ _) hvoice f v d
  · rintro rfl rfl rfl
    have hvoice (g : ℝ) : oscSample (Numerics.realized s e) .sine g 0 sr 1 al st ∈ ({0} : Set ℝ) := by
      rw [oscSample_realized_direct, Rat.cast_zero, mul_zero, Int.fract_zero]
      exact hnamed.sinZero
    exact mixVoices_realized_mem (convex_singleton 0) hvoice f v d

end Sys2Proof.Machine

/-! PROOFS. Unison over the exact reals (41_unison.md R130 to R136). -/

namespace Sys2Proof.Machine

/-! ### The enclosure of 2^x (41_unison.md R134, 44_control.md R241) -/

/-- Settles O43: 2^x is a power of 2 times an exponential, which its series encloses. -/
theorem exp2EnclosureHoldsThePower : Obligations.Exp2EnclosureHoldsThePower :=
  exp2Enclosure_encloses

/-! ### VALIDATE_UNISON (41_unison.md R131) -/

theorem validateUnison_of_not_isFinite (v : Nat) {d : Word} (hd : isFinite d = false) :
    validateUnison v d = (1, 0) := by
  simp [validateUnison, hd]

theorem validateUnison_of_isFinite (v : Nat) {d : Word} (hd : isFinite d = true) :
    validateUnison v d = (min (max v 1) 8, min (max (f32 d) 0) 100) :=
  if_pos hd

/-- Settles O48: a finite detune is clamped with its voice count, and a clamp fixes what is in range. -/
theorem validateUnisonClampsOrFallsBack : Obligations.ValidateUnisonClampsOrFallsBack := by
  intro v d
  refine ⟨validateUnison_of_not_isFinite v, validateUnison_of_isFinite v, fun hv1 hv8 hd h0 h100 => ?_⟩
  rw [validateUnison_of_isFinite v hd, max_eq_left hv1, min_eq_left hv8, max_eq_left h0,
    min_eq_left h100]

theorem validateUnison_one (d : Word) : (validateUnison 1 d).1 = 1 := by
  unfold validateUnison
  split <;> rfl

/-! ### The voice offsets (41_unison.md R133) -/

theorem voiceOffset_zero (v : Nat) (d : Rat) : voiceOffset v d 0 = -d / 2 := by
  simp [voiceOffset]

theorem voiceOffset_no_detune (v i : Nat) : voiceOffset v 0 i = 0 := by
  simp [voiceOffset]

theorem voiceOffset_succ_sub (v : Nat) (d : Rat) (i : Nat) :
    voiceOffset v d (i + 1) - voiceOffset v d i = d / ((v : Rat) - 1) := by
  simp only [voiceOffset]
  push_cast
  ring

/-- Voices i and V - 1 - i lie on opposite sides of 0, equally far from it. -/
theorem voiceOffset_reflect {v : Nat} (hv : 2 ≤ v) (d : Rat) {i : Nat} (hi : i < v) :
    voiceOffset v d (v - 1 - i) = -voiceOffset v d i := by
  have hden : (v : Rat) - 1 ≠ 0 := by
    have : (2 : Rat) ≤ v := by exact_mod_cast hv
    linarith
  have hcast : ((v - 1 - i : Nat) : Rat) = v - 1 - i := by
    rw [Nat.cast_sub (by omega), Nat.cast_sub (by omega), Nat.cast_one]
  simp only [voiceOffset, hcast]
  field_simp
  ring

/-- Settles O49: the step is a difference of two offsets, and +D/2 is the reflection of -D/2. -/
theorem voiceOffsetsSpreadSymmetrically : Obligations.VoiceOffsetsSpreadSymmetrically := by
  intro v d hv
  refine ⟨voiceOffset_zero v d, ?_, voiceOffset_succ_sub v d, fun i hi => ?_⟩
  · calc voiceOffset v d (v - 1) = -voiceOffset v d 0 := voiceOffset_reflect hv d (Nat.zero_lt_of_lt hv)
      _ = d / 2 := by rw [voiceOffset_zero, neg_div, neg_neg]
  · rw [voiceOffset_reflect hv d hi, neg_neg]

/-! ### The mix (41_unison.md R132 to R136) -/

section Mix

variable (s e : ℝ → ℝ) (kind : WaveKind) (f : ℝ) (t sr : Rat) (r : Nat) (al st : Rat) {v : Nat} {d : Word}

/-- One voice sounds at the base frequency itself (R132). -/
theorem mixVoices_realized_single (h : (validateUnison v d).1 = 1) :
    mixVoices (Numerics.realized s e) f kind v d t sr r al st
      = oscSample (Numerics.realized s e) kind f t sr r al st :=
  if_pos h

/-- Several voices are averaged (R133 to R135). -/
theorem mixVoices_realized_several {n : Nat} {q : Rat} (h : validateUnison v d = (n, q)) (hn : n ≠ 1) :
    mixVoices (Numerics.realized s e) f kind v d t sr r al st
      = (∑ i ∈ Finset.range n,
          oscSample (Numerics.realized s e) kind (f * e (voiceOffset n q i / 1200 : Rat)) t sr r al st)
        / n := by
  unfold mixVoices
  rw [h]
  dsimp only
  rw [if_neg hn, foldl_add_realized, ← Rat.cast_natCast]
  rfl

/-- Voices with no detune all sound at the base frequency, and so does their mean. -/
theorem mixVoices_realized_no_detune (he : e 0 = 1) {n : Nat} (h : validateUnison v d = (n, 0)) :
    mixVoices (Numerics.realized s e) f kind v d t sr r al st
      = oscSample (Numerics.realized s e) kind f t sr r al st := by
  by_cases h1 : n = 1
  · exact mixVoices_realized_single s e kind f t sr r al st ((congrArg Prod.fst h).trans h1)
  · have hvoice (i : Nat) :
        oscSample (Numerics.realized s e) kind (f * e (voiceOffset n 0 i / 1200 : Rat)) t sr r al st
          ∈ ({oscSample (Numerics.realized s e) kind f t sr r al st} : Set ℝ) := by
      simp [voiceOffset_no_detune, he]
    have hn : 1 ≤ n := by simpa [h] using one_le_validateUnison v d
    rw [mixVoices_realized_several s e kind f t sr r al st h h1]
    exact mean_mem (convex_singleton _) hvoice hn

end Mix

/-- A frequency ratio of 2^(c/1200) is c cents (R136). -/
theorem cents_of_ratio {f : ℝ} (hf : f ≠ 0) (c : ℝ) :
    1200 * Real.logb 2 (f * (2 : ℝ) ^ (c / 1200) / f) = c := by
  rw [mul_div_cancel_left₀ _ hf, Real.logb_rpow two_pos (by norm_num)]
  ring

/-- Settles O50: every voice lies in [-1, 1] and so does their mean; with one voice or no detune each of
them sounds at f. -/
theorem unisonMixStaysInRangeAndReducesToOneVoice :
    Obligations.UnisonMixStaysInRangeAndReducesToOneVoice := by
  intro kind f v d t sr r al st hf hr hr16 hal0 hal1 hst0 hst1
  refine ⟨?_, ?_, fun hd => ?_, fun q i _ => ?_⟩
  · have hvoice (g : ℝ) : oscSample Numerics.real kind g t sr r al st ∈ Set.Icc (-1 : ℝ) 1 :=
      (oscillatorStaysInRange kind g t sr r al st hr hr16 hal0 hal1 hst0 hst1).1
    exact mixVoices_realized_mem (convex_Icc _ _) hvoice f v d
  · rintro (rfl | ⟨hd, h0⟩)
    · exact mixVoices_realized_single _ _ kind f t sr r al st (validateUnison_one d)
    · have hv : validateUnison v d = (min (max v 1) 8, 0) := by
        rw [validateUnison_of_isFinite v hd, h0]
        rfl
      exact mixVoices_realized_no_detune _ _ kind f t sr r al st (Real.rpow_zero 2) hv
  · intro n spread hn
    have hoffset (i : Nat) : ((voiceOffset n (min (max (f32 d) 0) 100) i / 1200 : Rat) : ℝ)
        = (-spread / 2 + (i : ℝ) * spread / ((n : ℝ) - 1)) / 1200 := by
      simp only [voiceOffset, Rat.cast_div, Rat.cast_add, Rat.cast_neg, Rat.cast_mul, Rat.cast_sub,
        Rat.cast_natCast, Rat.cast_one, Rat.cast_ofNat, spread]
    simp only [← hoffset]
    exact mixVoices_realized_several _ _ kind f t sr r al st (validateUnison_of_isFinite v hd) hn
  · have hcast : ((voiceOffset v q i / 1200 : Rat) : ℝ) = (voiceOffset v q i : ℝ) / 1200 := by push_cast; rfl
    change 1200 * Real.logb 2 (f * (2 : ℝ) ^ ((voiceOffset v q i / 1200 : Rat) : ℝ) / f) = _
    rw [hcast]
    exact cents_of_ratio hf.ne' _

end Sys2Proof.Machine

/-! PROOFS. The smootherstep, and the envelope's operations stage by stage (42_envelope.md R150 to R156). -/

namespace Sys2Proof.Machine

/-! ### The smootherstep (42_envelope.md R150) -/

/-- The clamp of R150 keeps a point of [0, 1]. -/
theorem smootherstep_of_mem {u : Rat} (h0 : 0 ≤ u) (h1 : u ≤ 1) :
    smootherstep u = u ^ 3 * (u * (6 * u - 15) + 10) := by
  have hclamp : clampRat u 0 1 = u := by rw [clampRat, max_eq_left h0, min_eq_left h1]
  rw [smootherstep, hclamp]
  ring

/-- The smootherstep depends on the clamped point only. -/
theorem smootherstep_clampRat (u : Rat) : smootherstep (clampRat u 0 1) = smootherstep u := by
  obtain ⟨h0, h1⟩ := clampRat_mem u zero_le_one
  rw [smootherstep_of_mem h0 h1, smootherstep]
  ring

theorem smootherstep_of_nonpos {u : Rat} (h : u ≤ 0) : smootherstep u = 0 := by
  have hclamp : clampRat u 0 1 = 0 := by rw [clampRat, max_eq_right h, min_eq_left zero_le_one]
  rw [smootherstep, hclamp]
  norm_num

theorem smootherstep_of_one_le {u : Rat} (h : 1 ≤ u) : smootherstep u = 1 := by
  have hclamp : clampRat u 0 1 = 1 := min_eq_right (h.trans (le_max_left u 0))
  rw [smootherstep, hclamp]
  norm_num

theorem smootherstep_half : smootherstep (1 / 2) = 1 / 2 := by
  rw [smootherstep_of_mem (by norm_num) (by norm_num)]
  norm_num

/-- The mean slope of the quintic between u and v, written with n = 1 - u - v and w = v - u. -/
def smootherstepSecant (u v : Rat) : Rat :=
  15 / 8 * ((1 - (1 - u - v) ^ 2 - (v - u) ^ 2 / 3) ^ 2 + 4 / 45 * (v - u) ^ 4
    + 4 / 3 * (1 - u - v) ^ 2 * (v - u) ^ 2)

theorem smootherstep_sub_of_mem {u v : Rat} (hu : 0 ≤ u ∧ u ≤ 1) (hv : 0 ≤ v ∧ v ≤ 1) :
    smootherstep v - smootherstep u = smootherstepSecant u v * (v - u) := by
  rw [smootherstep_of_mem hu.1 hu.2, smootherstep_of_mem hv.1 hv.2, smootherstepSecant]
  ring

theorem smootherstepSecant_nonneg (u v : Rat) : 0 ≤ smootherstepSecant u v := by
  unfold smootherstepSecant
  positivity

theorem smootherstepSecant_pos {u v : Rat} (h : u ≠ v) : 0 < smootherstepSecant u v := by
  have hw : v - u ≠ 0 := sub_ne_zero.mpr h.symm
  unfold smootherstepSecant
  positivity

/-- On [0, 1] the squares of n and w add up to at most 1, so that the two parts in which the mean slope
differs from 15/8 are both at most 0. -/
theorem smootherstepSecant_le {u v : Rat} (hu : 0 ≤ u ∧ u ≤ 1) (hv : 0 ≤ v ∧ v ≤ 1) :
    smootherstepSecant u v ≤ 15 / 8 := by
  have hsum : (1 - u - v) ^ 2 + (v - u) ^ 2 ≤ 1 := by
    nlinarith [mul_nonneg hu.1 (sub_nonneg.mpr hu.2), mul_nonneg hv.1 (sub_nonneg.mpr hv.2)]
  unfold smootherstepSecant
  generalize 1 - u - v = n, v - u = w at hsum
  have hn : 0 ≤ n ^ 2 * (2 - n ^ 2 - 2 * w ^ 2) :=
    mul_nonneg (sq_nonneg n) (by linarith [sq_nonneg n])
  have hw : 0 ≤ w ^ 2 * (10 - 3 * w ^ 2) := mul_nonneg (sq_nonneg w) (by linarith [sq_nonneg n])
  linarith [show (1 - n ^ 2 - w ^ 2 / 3) ^ 2 + 4 / 45 * w ^ 4 + 4 / 3 * n ^ 2 * w ^ 2
    = 1 - n ^ 2 * (2 - n ^ 2 - 2 * w ^ 2) - w ^ 2 * (10 - 3 * w ^ 2) / 15 by ring]

theorem smootherstep_lt_smootherstep {u v : Rat} (hu : 0 ≤ u) (huv : u < v) (hv : v ≤ 1) :
    smootherstep u < smootherstep v := by
  rw [← sub_pos, smootherstep_sub_of_mem ⟨hu, huv.le.trans hv⟩ ⟨hu.trans huv.le, hv⟩]
  exact mul_pos (smootherstepSecant_pos huv.ne) (sub_pos.mpr huv)

/-- The clamp of 1 - u is 1 less the clamp of u, and the quintic has that symmetry on [0, 1]. -/
theorem smootherstep_one_sub (u : Rat) : smootherstep (1 - u) = 1 - smootherstep u := by
  rcases le_total u 0 with h0 | h0
  · rw [smootherstep_of_nonpos h0, smootherstep_of_one_le (by linarith), sub_zero]
  rcases le_total 1 u with h1 | h1
  · rw [smootherstep_of_one_le h1, smootherstep_of_nonpos (by linarith), sub_self]
  · rw [smootherstep_of_mem h0 h1, smootherstep_of_mem (by linarith) (by linarith)]
    ring

/-- A clamp brings no two points further apart. -/
theorem abs_clampRat_sub_clampRat_le (u v lo hi : Rat) : |clampRat u lo hi - clampRat v lo hi| ≤ |u - v| :=
  calc |clampRat u lo hi - clampRat v lo hi|
      ≤ max |max u lo - max v lo| |hi - hi| := abs_min_sub_min_le_max ..
    _ = |max u lo - max v lo| := by rw [sub_self, abs_zero, max_eq_left (abs_nonneg _)]
    _ ≤ |u - v| := abs_max_sub_max_le_abs ..

theorem abs_smootherstep_sub_le (u v : Rat) : |smootherstep u - smootherstep v| ≤ 15 / 8 * |u - v| := by
  have hu := clampRat_mem u zero_le_one
  have hv := clampRat_mem v zero_le_one
  calc |smootherstep u - smootherstep v|
      = smootherstepSecant (clampRat v 0 1) (clampRat u 0 1) * |clampRat u 0 1 - clampRat v 0 1| := by
        rw [← smootherstep_clampRat u, ← smootherstep_clampRat v, smootherstep_sub_of_mem hv hu, abs_mul,
          abs_of_nonneg (smootherstepSecant_nonneg _ _)]
    _ ≤ 15 / 8 * |u - v| :=
        mul_le_mul (smootherstepSecant_le hv hu) (abs_clampRat_sub_clampRat_le u v 0 1) (abs_nonneg _)
          (by norm_num)

/-- Settles O31: the quintic's mean slope between two points of [0, 1] is a sum of squares, positive and at
most 15/8. -/
theorem smootherstepIsTheQuinticEase : Obligations.SmootherstepIsTheQuinticEase := by
  have hquarter : smootherstep (1 / 4) = 53 / 512 := by
    rw [smootherstep_of_mem (by norm_num) (by norm_num)]
    norm_num
  exact ⟨fun _ => smootherstep_of_mem, hquarter, fun _ => smootherstep_of_nonpos,
    fun _ => smootherstep_of_one_le, smootherstep_half, fun _ _ => smootherstep_lt_smootherstep,
    smootherstep_one_sub, abs_smootherstep_sub_le⟩

/-! ### Note start and note end (42_envelope.md R152, R153) -/

/-- A note is held in Attack, Decay and Sustain (R46). -/
theorem Stage.triggered_iff {st : Stage} :
    st.triggered = true ↔ st = .attack ∨ st = .decay ∨ st = .sustain := by
  cases st <;> decide

/-- Settles O33: the model's Boolean test is the statement's condition. -/
theorem endReleasesTheSelectedHeldNote : Obligations.EndReleasesTheSelectedHeldNote := by
  intro sel e
  simp only [envEnd, Bool.and_eq_true, Bool.or_eq_true, beq_iff_eq, Stage.triggered_iff]

theorem envEnd_value (sel : Option Byte) (e : Envelope) : (envEnd sel e).value = e.value := by
  unfold envEnd
  split_ifs <;> rfl

theorem envStart_same {tok : Byte} {e : Envelope} (h : e.stage.triggered = true ∧ e.note = tok)
    (sus : Rat) : envStart tok sus e = e :=
  if_pos (by simpa using h)

/-- The implicit end of another note keeps the value, and the Attack writes every other field. -/
theorem envStart_other {tok : Byte} {e : Envelope} (h : ¬ (e.stage.triggered = true ∧ e.note = tok))
    (sus : Rat) :
    envStart tok sus e
      = { stage := .attack, value := e.value, elapsed := 0, origin := e.value, susSnap := sus,
          note := tok, noteValid := true } := by
  rw [envStart, if_neg (by simpa using h)]
  split_ifs
  · dsimp only
    rw [envEnd_value]
  · rfl

/-- Settles O32: the no-op, and every other start. -/
theorem startRetriggersWithoutAJump : Obligations.StartRetriggersWithoutAJump := by
  intro tok sus e
  simp only [← Stage.triggered_iff]
  split_ifs with h
  · exact envStart_same h sus
  · exact envStart_other h sus

/-! ### The update, stage by stage (42_envelope.md R151, R154 to R156) -/

theorem atLeastEps_pos (x : Rat) : 0 < atLeastEps x :=
  lt_max_of_lt_right (by decide +kernel)

/-- The envelope x seconds into a Decay of d seconds: in Decay, or in Sustain once they are over. -/
def Envelope.decayAt (d x : Rat) (e : Envelope) : Envelope :=
  if x < d then
    { e with stage := .decay, elapsed := x, value := 1 + (e.susSnap - 1) * smootherstep (x / d) }
  else { e with stage := .sustain, elapsed := 0, value := e.susSnap }

/-- What an update does with an envelope that is in Decay once its time has passed. -/
theorem transitions_of_decay {x : Envelope} (h : x.stage = .decay) (a d r : Rat) :
    let u := releaseToIdle r (decayToSustain d x)
    { u with value := envValue u a d r } = x.decayAt d x.elapsed := by
  unfold Envelope.decayAt
  split_ifs with hd
  · simp [decayToSustain, releaseToIdle, envValue, h, hd.not_ge]
  · simp [decayToSustain, releaseToIdle, envValue, h, not_lt.mp hd]

section Update

variable (dt ap dp rp : Rat) {e : Envelope}

theorem envUpdate_idle (h : e.stage = .idle) :
    envUpdate dt ap dp rp e = { e with value := 0, elapsed := 0 } := by
  simp only [envUpdate, h]

theorem envUpdate_sustain (h : e.stage = .sustain) :
    envUpdate dt ap dp rp e = { e with value := e.susSnap } := by
  simp only [envUpdate, h]

/-- In Attack, Decay and Release time passes, and the transitions are tried in order. -/
theorem envUpdate_of_moving (hi : e.stage ≠ .idle) (hs : e.stage ≠ .sustain) :
    envUpdate dt ap dp rp e
      = let u := releaseToIdle (atLeastEps rp) (decayToSustain (atLeastEps dp)
          (attackToDecay (atLeastEps ap) { e with elapsed := e.elapsed + dt }))
        { u with value := envValue u (atLeastEps ap) (atLeastEps dp) (atLeastEps rp) } := by
  obtain ⟨stage, value, elapsed, origin, susSnap, note, noteValid⟩ := e
  cases stage with
  | idle => exact absurd rfl hi
  | sustain => exact absurd rfl hs
  | attack | decay | release => rfl

theorem envUpdate_attack_of_lt (h : e.stage = .attack) (hlt : e.elapsed + dt < atLeastEps ap) :
    envUpdate dt ap dp rp e
      = { e with
          elapsed := e.elapsed + dt
          value := e.origin + (1 - e.origin) * smootherstep ((e.elapsed + dt) / atLeastEps ap) } := by
  simp [envUpdate, envValue, attackToDecay, decayToSustain, releaseToIdle, h, hlt.not_ge]

/-- The excess of the Attack is carried into the Decay, which the same update may end (R156). -/
theorem envUpdate_attack_of_le (h : e.stage = .attack) (hle : atLeastEps ap ≤ e.elapsed + dt) :
    envUpdate dt ap dp rp e = e.decayAt (atLeastEps dp) (e.elapsed + dt - atLeastEps ap) := by
  have hmove : attackToDecay (atLeastEps ap) { e with elapsed := e.elapsed + dt }
      = { e with stage := .decay, elapsed := e.elapsed + dt - atLeastEps ap } :=
    if_pos ⟨h, hle⟩
  rw [envUpdate_of_moving dt ap dp rp (by simp [h]) (by simp [h]), hmove]
  exact transitions_of_decay
    (x := { e with stage := .decay, elapsed := e.elapsed + dt - atLeastEps ap }) rfl _ _ _

theorem envUpdate_decay (h : e.stage = .decay) :
    envUpdate dt ap dp rp e = e.decayAt (atLeastEps dp) (e.elapsed + dt) := by
  have hstay : attackToDecay (atLeastEps ap) { e with elapsed := e.elapsed + dt }
      = { e with elapsed := e.elapsed + dt } :=
    if_neg (by simp [h])
  rw [envUpdate_of_moving dt ap dp rp (by simp [h]) (by simp [h]), hstay]
  exact transitions_of_decay (x := { e with elapsed := e.elapsed + dt }) h _ _ _

theorem envUpdate_release_of_lt (h : e.stage = .release) (hlt : e.elapsed + dt < atLeastEps rp) :
    envUpdate dt ap dp rp e
      = { e with
          elapsed := e.elapsed + dt
          value := e.origin * (1 - smootherstep ((e.elapsed + dt) / atLeastEps rp)) } := by
  simp [envUpdate, envValue, attackToDecay, decayToSustain, releaseToIdle, h, hlt.not_ge]

theorem envUpdate_release_of_le (h : e.stage = .release) (hle : atLeastEps rp ≤ e.elapsed + dt) :
    envUpdate dt ap dp rp e
      = { e with
          stage := .idle, value := 0, elapsed := 0, origin := 0, note := 0#8, noteValid := false } := by
  simp [envUpdate, envValue, attackToDecay, decayToSustain, releaseToIdle, h, hle]

/-- Every update leaves VAL(E) of the stage it reaches (R154). -/
theorem envUpdate_value (e : Envelope) :
    (envUpdate dt ap dp rp e).value
      = envValue (envUpdate dt ap dp rp e) (atLeastEps ap) (atLeastEps dp) (atLeastEps rp) := by
  obtain ⟨stage, value, elapsed, origin, susSnap, note, noteValid⟩ := e
  cases stage <;> rfl

end Update

/-- Settles O34, with one equation for each stage and each side of its boundary. -/
theorem updateAdvancesTheStageByDt : Obligations.UpdateAdvancesTheStageByDt := by
  intro dt ap dp rp e a d r el decayAt
  refine ⟨envUpdate_idle dt ap dp rp, fun h => ?_, envUpdate_decay dt ap dp rp,
    envUpdate_sustain dt ap dp rp, fun h => ?_⟩
  · split_ifs with hlt
    · exact envUpdate_attack_of_lt dt ap dp rp h hlt
    · exact envUpdate_attack_of_le dt ap dp rp h (not_lt.mp hlt)
  · split_ifs with hlt
    · exact envUpdate_release_of_lt dt ap dp rp h hlt
    · exact envUpdate_release_of_le dt ap dp rp h (not_lt.mp hlt)

end Sys2Proof.Machine

/-! PROOFS. What the envelope does over its updates (42_envelope.md R159). -/

namespace Sys2Proof.Machine

/-- Settles O35: the value is VAL(E), a point between the two levels of its stage. -/
theorem updateKeepsTheValueInItsRange : Obligations.UpdateKeepsTheValueInItsRange := by
  intro dt ap dp rp e hdt he u
  have hu : u.legal := envUpdate_legal hdt.le ap dp rp he
  have hval : u.value = envValue u (atLeastEps ap) (atLeastEps dp) (atLeastEps rp) :=
    envUpdate_value dt ap dp rp e
  obtain ⟨-, -, -, ho0, ho1, -, hs1, -⟩ := id hu
  refine ⟨hu, fun h => ?_, fun h => ?_, fun h => ?_, fun h => ?_⟩
  · rw [hval, envValue, h]
    exact le_add_of_nonneg_right (mul_nonneg (sub_nonneg.mpr ho1) (smootherstep_mem _).1)
  · have hgap := mul_nonneg (sub_nonneg.mpr hs1)
      (sub_nonneg.mpr (smootherstep_mem (u.elapsed / atLeastEps dp)).2)
    rw [hval, envValue, h]
    dsimp only
    linarith
  · rw [hval, envValue, h]
  · rw [hval, envValue, h]
    exact mul_le_of_le_one_right ho0 (sub_le_self 1 (smootherstep_mem _).1)

/-! ### Time over the updates -/

/-- A property at a time, carried by one update from t to t + dt, holds j · dt after j updates. -/
theorem iterate_at_time {P : Rat → Envelope → Prop} {update : Envelope → Envelope} {dt : Rat}
    (hstep : ∀ t e, P t e → P (t + dt) (update e)) {e : Envelope} (h : P 0 e) (j : Nat) :
    P (j * dt) (update^[j] e) := by
  induction j with
  | zero => simpa using h
  | succ j ih =>
    rw [Function.iterate_succ_apply', show ((j + 1 : Nat) : Rat) * dt = j * dt + dt by push_cast; ring]
    exact hstep _ _ ih

/-! ### Reaching Sustain (42_envelope.md R159 item 1) -/

/-- The envelope of a note that has been held for t seconds, with an Attack of a and a Decay of d seconds
and the captured level `sus`. -/
def Envelope.HeldFor (a d sus t : Rat) (e : Envelope) : Prop :=
  e.susSnap = sus
    ∧ (e.stage = .attack ∧ e.elapsed = t ∧ t < a
      ∨ e.stage = .decay ∧ e.elapsed = t - a ∧ t < a + d
      ∨ e.stage = .sustain ∧ e.value = sus ∧ a + d ≤ t)

theorem Envelope.heldFor_decayAt {e : Envelope} {a d t x : Rat} (hx : x = t - a) :
    (e.decayAt d x).HeldFor a d e.susSnap t := by
  subst hx
  unfold Envelope.decayAt
  split_ifs with hd
  · exact ⟨rfl, .inr (.inl ⟨rfl, rfl, by linarith⟩)⟩
  · exact ⟨rfl, .inr (.inr ⟨rfl, rfl, by linarith⟩)⟩

/-- A start from Idle begins the held time at 0. -/
theorem envStart_heldFor {e : Envelope} (h : e.stage = .idle) (tok : Byte) (sus : Rat) {a : Rat} (ha : 0 < a)
    (d : Rat) : (envStart tok sus e).HeldFor a d sus 0 := by
  rw [envStart_other (by simp [h, Stage.triggered])]
  exact ⟨rfl, .inl ⟨rfl, rfl, ha⟩⟩

/-- One update adds dt to the held time. -/
theorem Envelope.HeldFor.envUpdate {e : Envelope} {dt ap dp rp sus t : Rat} (hdt : 0 < dt)
    (h : e.HeldFor (atLeastEps ap) (atLeastEps dp) sus t) :
    (envUpdate dt ap dp rp e).HeldFor (atLeastEps ap) (atLeastEps dp) sus (t + dt) := by
  obtain ⟨rfl, ⟨hst, rfl, hlt⟩ | ⟨hst, hel, hlt⟩ | ⟨hst, hval, hle⟩⟩ := h
  · rcases lt_or_ge (e.elapsed + dt) (atLeastEps ap) with hlt' | hle
    · rw [envUpdate_attack_of_lt dt ap dp rp hst hlt']
      exact ⟨rfl, .inl ⟨hst, rfl, hlt'⟩⟩
    · rw [envUpdate_attack_of_le dt ap dp rp hst hle]
      exact heldFor_decayAt rfl
  · rw [envUpdate_decay dt ap dp rp hst]
    exact heldFor_decayAt (by rw [hel]; ring)
  · rw [envUpdate_sustain dt ap dp rp hst]
    exact ⟨rfl, .inr (.inr ⟨hst, rfl, by linarith⟩)⟩

theorem Envelope.HeldFor.stage_ne_sustain {e : Envelope} {a d sus t : Rat} (h : e.HeldFor a d sus t)
    (ht : t < a + d) : e.stage ≠ .sustain := by
  obtain ⟨-, ⟨hst, -⟩ | ⟨hst, -⟩ | ⟨-, -, hle⟩⟩ := h
  · simp [hst]
  · simp [hst]
  · exact absurd hle ht.not_ge

theorem Envelope.HeldFor.sustain {e : Envelope} {a d sus t : Rat} (h : e.HeldFor a d sus t) (hd : 0 ≤ d)
    (ht : a + d ≤ t) : e.stage = .sustain ∧ e.value = sus := by
  obtain ⟨-, ⟨-, -, hlt⟩ | ⟨-, -, hlt⟩ | ⟨hst, hval, -⟩⟩ := h
  · linarith
  · linarith
  · exact ⟨hst, hval⟩

/-- Settles O36: after j updates the note has been held for j · dt seconds. -/
theorem sustainIsReachedAfterAttackPlusDecay : Obligations.SustainIsReachedAfterAttackPlusDecay := by
  intro tok sus dt ap dp rp e k hidle hdt a d after hk hleast
  have hheld (j : Nat) : (after j).HeldFor a d sus (j * dt) :=
    iterate_at_time (P := Envelope.HeldFor a d sus) (fun _ _ h => h.envUpdate hdt)
      (envStart_heldFor hidle tok sus (atLeastEps_pos ap) _) j
  refine ⟨fun j hj => (hheld j).stage_ne_sustain (hleast j hj), fun j hj => ?_⟩
  have hkj : (k : Rat) * dt ≤ j * dt := mul_le_mul_of_nonneg_right (by exact_mod_cast hj) hdt.le
  exact (hheld j).sustain (atLeastEps_pos dp).le (hk.trans hkj)

/-! ### Release (42_envelope.md R159 item 2) -/

/-- The envelope of a note that was released from the value v t seconds ago, with a Release of r seconds. -/
def Envelope.ReleasedFor (r v t : Rat) (e : Envelope) : Prop :=
  e.value = v * (1 - smootherstep (t / r))
    ∧ (e.stage = .release ∧ e.origin = v ∧ e.elapsed = t ∧ t < r ∨ e.stage = .idle ∧ r ≤ t)

/-- A Release that is over has reached 0. -/
theorem Envelope.releasedFor_of_idle {e : Envelope} (hst : e.stage = .idle) (hval : e.value = 0) {r t : Rat}
    {v : Rat} (hr : 0 < r) (ht : r ≤ t) : e.ReleasedFor r v t := by
  refine ⟨?_, .inr ⟨hst, ht⟩⟩
  rw [hval, smootherstep_of_one_le ((one_le_div hr).mpr ht), sub_self, mul_zero]

/-- An end that selects the held note begins the released time at 0. -/
theorem envEnd_releasedFor {e : Envelope} (h : e.stage = .attack ∨ e.stage = .decay ∨ e.stage = .sustain)
    {sel : Option Byte} (hsel : sel = none ∨ sel = some e.note) {r : Rat} (hr : 0 < r) :
    (envEnd sel e).ReleasedFor r e.value 0 := by
  rw [endReleasesTheSelectedHeldNote, if_pos ⟨h, hsel⟩]
  refine ⟨?_, .inl ⟨rfl, rfl, rfl, hr⟩⟩
  rw [zero_div, smootherstep_of_nonpos le_rfl, sub_zero, mul_one]

/-- One update adds dt to the released time. -/
theorem Envelope.ReleasedFor.envUpdate {e : Envelope} {dt ap dp rp v t : Rat} (hdt : 0 < dt)
    (h : e.ReleasedFor (atLeastEps rp) v t) :
    (envUpdate dt ap dp rp e).ReleasedFor (atLeastEps rp) v (t + dt) := by
  have hr := atLeastEps_pos rp
  obtain ⟨-, ⟨hst, rfl, rfl, -⟩ | ⟨hst, hle⟩⟩ := h
  · rcases lt_or_ge (e.elapsed + dt) (atLeastEps rp) with hlt | hle
    · rw [envUpdate_release_of_lt dt ap dp rp hst hlt]
      exact ⟨rfl, .inl ⟨hst, rfl, rfl, hlt⟩⟩
    · rw [envUpdate_release_of_le dt ap dp rp hst hle]
      exact releasedFor_of_idle rfl rfl hr hle
  · rw [envUpdate_idle dt ap dp rp hst]
    exact releasedFor_of_idle (e := { e with value := 0, elapsed := 0 }) hst rfl hr (by linarith)

theorem Envelope.ReleasedFor.idle {e : Envelope} {r v t : Rat} (h : e.ReleasedFor r v t) (hr : 0 < r)
    (ht : r ≤ t) : e.stage = .idle ∧ e.value = 0 := by
  obtain ⟨hval, ⟨-, -, -, hlt⟩ | ⟨hst, -⟩⟩ := h
  · exact absurd ht hlt.not_ge
  · rw [smootherstep_of_one_le ((one_le_div hr).mpr ht), sub_self, mul_zero] at hval
    exact ⟨hst, hval⟩

/-- Settles O37: after j updates the value is v · (1 - S(j · dt / r)). -/
theorem releaseFallsStrictlyToZero : Obligations.ReleaseFallsStrictlyToZero := by
  intro sel dt ap dp rp e k hst hsel hv hdt r after hk hleast
  have hr : 0 < r := atLeastEps_pos rp
  have hreleased (j : Nat) : (after j).ReleasedFor r e.value (j * dt) :=
    iterate_at_time (P := Envelope.ReleasedFor r e.value) (fun _ _ h => h.envUpdate hdt)
      (envEnd_releasedFor (.inr (.inr hst)) hsel hr) j
  have hval (j : Nat) : (after j).value = e.value * (1 - smootherstep (j * dt / r)) := (hreleased j).1
  refine ⟨envEnd_value sel e, fun j hj => ?_, fun j hj => ?_, (hreleased k).idle hr hk⟩
  · rw [hval, hval]
    have hstep : (j : Rat) * dt / r < ((j + 1 : Nat) : Rat) * dt / r := by
      gcongr
      exact Nat.lt_succ_self j
    have hend : ((j + 1 : Nat) : Rat) * dt / r ≤ 1 := (div_le_one hr).mpr (hleast _ hj).le
    have hfall := smootherstep_lt_smootherstep (by positivity) hstep hend
    exact mul_lt_mul_of_pos_left (sub_lt_sub_left hfall 1) hv
  · rw [hval, hj, div_div_cancel_left' hr.ne', ← one_div, smootherstep_half]
    ring

/-! ### The step after a retrigger (42_envelope.md R159 item 4) -/

/-- Settles O38: within the Attack the value moves by (1 - v) · S(dt / a); where the update leaves it, dt is
at least a, and no step between two values of [0, 1] exceeds 1. -/
theorem retriggerStepIsBoundedByTheSlope : Obligations.RetriggerStepIsBoundedByTheSlope := by
  intro tok sus dt ap dp rp e hv0 hv1 hs0 hs1 hdt hother
  have ha := atLeastEps_pos ap
  rw [← Stage.triggered_iff] at hother
  rw [envStart_other hother sus]
  change _ ≤ 15 / 8 * dt / atLeastEps ap
  rcases lt_or_ge (0 + dt) (atLeastEps ap) with hlt | hle
  · rw [envUpdate_attack_of_lt dt ap dp rp rfl hlt, zero_add, add_sub_cancel_left, abs_mul]
    have hslope := abs_smootherstep_sub_le (dt / atLeastEps ap) 0
    rw [smootherstep_of_nonpos le_rfl, sub_zero, sub_zero, abs_of_pos (div_pos hdt ha), ← mul_div_assoc]
      at hslope
    calc |1 - e.value| * |smootherstep (dt / atLeastEps ap)|
        ≤ 1 * |smootherstep (dt / atLeastEps ap)| :=
          mul_le_mul_of_nonneg_right (abs_sub_le_of_nonneg_of_le zero_le_one le_rfl hv0 hv1) (abs_nonneg _)
      _ ≤ 15 / 8 * dt / atLeastEps ap := by rwa [one_mul]
  · have hmem := envUpdate_value_mem (e := ⟨.attack, e.value, 0, e.value, sus, tok, true⟩)
      ⟨hv0, hv1⟩ ⟨hs0, hs1⟩ dt ap dp rp
    calc _ ≤ (1 : Rat) := abs_sub_le_of_nonneg_of_le hmem.1 hmem.2 hv0 hv1
      _ ≤ 15 / 8 * dt / atLeastEps ap := by
          rw [le_div_iff₀ ha]
          linarith

end Sys2Proof.Machine

/-! PROOFS. FILL and the steps of the engine (43_engine.md R190 to R203): each step's equation, what an
uninterrupted FILL leaves, and that a parameter command and an engine step commute. -/

namespace Sys2Proof.Machine

/-! ### FILL, one equation for each answer (43_engine.md R190, R191) -/

section Fill

variable {s : State} {fn fbuf : Word}

theorem execFill_of_stopped (halign : fbuf.toNat % 4 = 0) (hfip : s.fill.fip = false)
    (hrun : s.status.running = false) : execFill fn fbuf s = .next (fillStopped fn fbuf s) := by
  simp [execFill, halign, hfip, hrun]

theorem execFill_of_running (halign : fbuf.toNat % 4 = 0) (hfip : s.fill.fip = false)
    (hrun : s.status.running = true) :
    execFill fn fbuf s = .next (bufferStart { s with fill := s.fill.begin fn fbuf }) := by
  simp [execFill, halign, hfip, hrun]

end Fill

/-- Settles O22: the memory is that of FN zero words. -/
theorem fillWhileStoppedWritesSilence : Obligations.FillWhileStoppedWritesSilence := by
  intro s fn fbuf halign hfip hrun
  exact ⟨Memory.writeZeros fbuf.toNat fn.toNat s.mem, execFill_of_stopped halign hfip hrun,
    fun _ hj => Memory.readWord_writeZeros s.mem hj, fun _ ha => Memory.read_writeZeros_other _ _ _ ha⟩

/-- The next draw of the list, fresh for every group past its end (log entry 3). -/
theorem State.nextDraw_eq_headD (s : State) :
    s.nextDraw = s.draws.headD { freq := true, voice := true, envp := true, qual := true } := by
  unfold State.nextDraw
  cases s.draws <;> rfl

/-- Settles O24: BUFFER_START takes the snapshot of the next draw, and applies each queued event. -/
theorem fillInASessionStartsTheBuffer : Obligations.FillInASessionStartsTheBuffer := by
  intro s fn fbuf halign hfip hrun d
  refine ⟨snapshot d s.param s.snap, (execFill_of_running halign hfip hrun).trans ?_, rfl, rfl, rfl, rfl⟩
  simp only [d, ← State.nextDraw_eq_headD]
  rfl

/-! ### The engine's step, one equation for each answer (43_engine.md R190, R194, R199) -/

section Engine

variable (R : Realization) {s : State}

theorem engineStep_of_no_fill (hfip : s.fill.fip = false) : engineStep R s = .next s := by
  simp [engineStep, hfip]

theorem engineStep_of_frame (hfip : s.fill.fip = true) (hj : s.fill.fj.toNat < s.fill.fn.toNat)
    (hrate : rateAccepted s.srate = true) :
    engineStep R s = .next (frameNext s (frameEnvelope s) (frameWord R s (frameEnvelope s))) := by
  simp [engineStep, frame, hfip, hj, hrate]

theorem engineStep_of_bad_rate (hfip : s.fill.fip = true) (hj : s.fill.fj.toNat < s.fill.fn.toNat)
    (hrate : rateAccepted s.srate = false) : engineStep R s = .fault .rateNotPositive := by
  simp [engineStep, frame, hfip, hj, hrate]

theorem engineStep_of_buffer_end (hfip : s.fill.fip = true) (hj : ¬ s.fill.fj.toNat < s.fill.fn.toNat) :
    engineStep R s = .next (bufferEnd s) := by
  simp [engineStep, hfip, hj]

end Engine

theorem ofNat_toNat_succ (w : Word) : BitVec.ofNat 32 (w.toNat + 1) = w + 1#32 := by
  rw [BitVec.ofNat_add, BitVec.ofNat_toNat, BitVec.setWidth_eq]

/-- Settles O25: the frame's state, with its one word write. -/
theorem frameWritesOneWordAndAdvances : Obligations.FrameWritesOneWordAndAdvances := by
  intro R s hfip hj hfin hpos sr e w at_
  refine ⟨Memory.writeWord at_ w s.mem, ?_, Memory.readWord_writeWord_same _ _ _,
    fun _ ha => Memory.read_writeWord_other _ _ _ ha⟩
  rw [ofNat_toNat_succ, ofNat_toNat_succ]
  exact engineStep_of_frame R hfip hj (rateAccepted_iff.mpr ⟨hfin, hpos⟩)

/-! ### The buffer end (43_engine.md R199) -/

theorem bufferEnd_running {s : State} (hstop : s.fill.stopPend = false) :
    (bufferEnd s).status.running = s.status.running := by
  rw [bufferEnd_eq, hstop]
  exact silenceBadBuffer_running s

/-- The memory a buffer end leaves: a bad buffer is silenced. -/
def bufferEndMem (s : State) : Memory :=
  if s.fill.badBuf = true then Memory.writeZeros s.fill.fbuf.toNat s.fill.fn.toNat s.mem else s.mem

/-- The buffer end, field by field. -/
theorem bufferEnd_fields (s : State) :
    bufferEnd s
      = let st := if s.fill.badBuf = true then { s.status with silenced := true } else s.status
        { s with
          mem := bufferEndMem s
          status := if s.fill.stopPend = true then { st with running := false } else st
          lastErr := if s.fill.badBuf = true then 0x06#8 else s.lastErr
          evq := if s.fill.stopPend = true then [] else s.evq
          fill := { s.fill with fip := false, badBuf := false, stopPend := false } } := by
  unfold bufferEndMem
  rw [bufferEnd_eq]
  cases hbad : s.fill.badBuf <;> cases hstop : s.fill.stopPend <;>
    simp only [silenceBadBuffer, hbad] <;> rfl

/-- Settles O26. -/
theorem bufferEndCompletesTheFill : Obligations.BufferEndCompletesTheFill := by
  intro R s hfip hj st
  refine ⟨bufferEndMem s, ?_, fun hbad => ?_, fun hbad => ?_⟩
  · rw [engineStep_of_buffer_end R hfip (not_lt.mpr hj), bufferEnd_fields]
  · simp [bufferEndMem, hbad]
  · rw [bufferEndMem, if_pos hbad]
    exact ⟨fun _ hj => Memory.readWord_writeZeros s.mem hj,
      fun _ ha => Memory.read_writeZeros_other _ _ _ ha⟩

/-- The buffer end writes no byte outside the buffer. -/
theorem read_bufferEndMem_other {s : State} {a : Nat}
    (ha : a < s.fill.fbuf.toNat ∨ s.fill.fbuf.toNat + 4 * s.fill.fn.toNat ≤ a) :
    Memory.read a (bufferEndMem s) = Memory.read a s.mem := by
  unfold bufferEndMem
  split_ifs
  · exact Memory.read_writeZeros_other _ _ _ ha
  · rfl

/-- The buffer end leaves every word of the buffer written. -/
theorem readWord_bufferEndMem_ne_none {s : State} {j : Nat} (hj : j < s.fill.fn.toNat)
    (h : Memory.readWord (s.fill.fbuf.toNat + 4 * j) s.mem ≠ none) :
    Memory.readWord (s.fill.fbuf.toNat + 4 * j) (bufferEndMem s) ≠ none := by
  unfold bufferEndMem
  split_ifs
  · simp [Memory.readWord_writeZeros s.mem hj]
  · exact h

/-! ### An uninterrupted FILL (43_engine.md R200, R201) -/

/-- A run of one step more. -/
theorem core_run_succ {M : Host.Core} {k : Nat} {s t : M.State} (h : M.run k s = .next t) :
    M.run (k + 1) s = M.step t := by
  induction k generalizing s with
  | zero =>
    obtain rfl := Host.Outcome.next.inj h
    cases hs : M.step s <;> simp [Host.Core.run, hs]
  | succ k ih =>
    rw [Host.Core.run] at h ⊢
    cases hs : M.step s with
    | next s' => rw [hs] at h; exact ih h
    | fault r => rw [hs] at h; exact nomatch h
    | refused r => rw [hs] at h; exact nomatch h

/-- `t` is a state of the uninterrupted FILL of `fn` frames at `fbuf` from `s`, after its first j frames. -/
structure FillProgress (s : State) (fn fbuf : Word) (j : Nat) (t : State) : Prop where
  fill : t.fill = { fip := true, fn := fn, fj := BitVec.ofNat 32 j, fbuf := fbuf, badBuf := t.fill.badBuf,
                    stopPend := false }
  inputs : t.inputs = List.replicate (fn.toNat + 1 - j) .engineTurn
  n : t.n = s.n + BitVec.ofNat 32 j
  param : t.param = s.param
  srate : t.srate = s.srate
  running : t.status.running = true
  evq : t.evq = []
  written : ∀ i < j, Memory.readWord (fbuf.toNat + 4 * i) t.mem ≠ none
  outside : ∀ a, a < fbuf.toNat ∨ fbuf.toNat + 4 * fn.toNat ≤ a → Memory.read a t.mem = Memory.read a s.mem

section Progress

variable {s t : State} {fn fbuf : Word} {j : Nat}

theorem fillProgress_start (halign : fbuf.toNat % 4 = 0) (hfip : s.fill.fip = false)
    (hstop : s.fill.stopPend = false) (hrun : s.status.running = true)
    (hin : s.inputs = uninterruptedFill fn fbuf) :
    ∃ t, step s = .next t ∧ FillProgress s fn fbuf 0 t := by
  refine ⟨_, (step_of_decoded hin rfl).trans
    (execFill_of_running (s := { s with inputs := _ }) halign hfip hrun), ?_⟩
  exact
    { fill := by simp [FillCtx.begin, hstop]
      inputs := rfl
      n := by simp
      param := rfl
      srate := rfl
      running := hrun
      evq := rfl
      written := by simp
      outside := fun _ _ => rfl }

/-- While a FILL is under way its next input is an engine turn. -/
theorem FillProgress.step_eq (h : FillProgress s fn fbuf j t) (hj : j ≤ fn.toNat) :
    step t = engineStep .reference { t with inputs := List.replicate (fn.toNat - j) .engineTurn } := by
  have hin := h.inputs
  rw [Nat.sub_add_comm hj, List.replicate_succ] at hin
  exact step_of_engineTurn hin

theorem FillProgress.fj_toNat (h : FillProgress s fn fbuf j t) (hj : j ≤ fn.toNat) :
    t.fill.fj.toNat = j := by
  rw [h.fill, BitVec.toNat_ofNat]
  exact Nat.mod_eq_of_lt (hj.trans_lt fn.isLt)

/-- One frame, which writes the word of frame j. -/
theorem FillProgress.frame (h : FillProgress s fn fbuf j t) (hrate : rateAccepted s.srate = true)
    (hj : j < fn.toNat) : ∃ u, step t = .next u ∧ FillProgress s fn fbuf (j + 1) u := by
  have hfj := h.fj_toNat hj.le
  have hnext : BitVec.ofNat 32 (j + 1) = BitVec.ofNat 32 j + 1#32 := BitVec.ofNat_add ..
  have haddr : frameAddress t.fill t.fill.fj = fbuf.toNat + 4 * j := by
    rw [frameAddress, hfj, h.fill]
  refine ⟨_, (h.step_eq hj.le).trans (engineStep_of_frame _ (by rw [h.fill]) (by rw [hfj, h.fill]; exact hj)
    (by rw [h.srate]; exact hrate)), ?_⟩
  exact
    { fill := by rw [frameNext_fill, hnext]; simp only; rw [h.fill]
      inputs := by simp
      n := by rw [frameNext_n, hnext, ← BitVec.add_assoc, ← h.n]
      param := h.param
      srate := h.srate
      running := h.running
      evq := h.evq
      written := fun i hi => by
        rw [frameNext_mem]
        simp only [haddr]
        rcases Nat.lt_succ_iff_lt_or_eq.mp hi with hi | rfl
        · rw [Memory.readWord_writeWord_other _ _ _ (by omega)]
          exact h.written i hi
        · simp [Memory.readWord_writeWord_same]
      outside := fun a ha => by
        rw [frameNext_mem]
        simp only [haddr]
        rw [Memory.read_writeWord_other _ _ _ (by omega), h.outside a ha] }

/-- The run of the request and the first j frames. -/
theorem fillProgress_run (halign : fbuf.toNat % 4 = 0) (hfip : s.fill.fip = false)
    (hstop : s.fill.stopPend = false) (hrun : s.status.running = true)
    (hrate : rateAccepted s.srate = true) (hin : s.inputs = uninterruptedFill fn fbuf) (hj : j ≤ fn.toNat) :
    ∃ t, core.run (j + 1) s = .next t ∧ FillProgress s fn fbuf j t := by
  induction j with
  | zero =>
    obtain ⟨t, hstep, ht⟩ := fillProgress_start halign hfip hstop hrun hin
    exact ⟨t, (core_run_succ (k := 0) rfl).trans hstep, ht⟩
  | succ j ih =>
    obtain ⟨t, hrun_t, ht⟩ := ih (Nat.le_of_succ_le hj)
    obtain ⟨u, hstep, hu⟩ := ht.frame hrate hj
    exact ⟨u, (core_run_succ hrun_t).trans hstep, hu⟩

/-- The buffer end after the last frame. -/
theorem FillProgress.finish (h : FillProgress s fn fbuf fn.toNat t) :
    ∃ u, step t = .next u ∧ u.fill.fip = false ∧ u.inputs = [] ∧ u.n = s.n + fn ∧ u.param = s.param
      ∧ u.srate = s.srate ∧ u.status.running = true ∧ u.evq = []
      ∧ (∀ i < fn.toNat, Memory.readWord (fbuf.toNat + 4 * i) u.mem ≠ none)
      ∧ ∀ a, a < fbuf.toNat ∨ fbuf.toNat + 4 * fn.toNat ≤ a → Memory.read a u.mem = Memory.read a s.mem := by
  have hj : ¬ t.fill.fj.toNat < t.fill.fn.toNat := by rw [h.fj_toNat le_rfl, h.fill]; exact lt_irrefl _
  have hfbuf : t.fill.fbuf = fbuf := by rw [h.fill]
  have hfn : t.fill.fn = fn := by rw [h.fill]
  have hpend : t.fill.stopPend = false := by rw [h.fill]
  have hstep : step t = .next (bufferEnd { t with inputs := [] }) := by
    rw [h.step_eq le_rfl, Nat.sub_self]
    exact engineStep_of_buffer_end _ (by rw [h.fill]) hj
  refine ⟨_, hstep, ?_⟩
  have hrunning := (bufferEnd_running (s := { t with inputs := [] }) hpend).trans h.running
  rw [bufferEnd_fields] at hrunning ⊢
  subst hfbuf hfn
  exact ⟨rfl, rfl, by simpa using h.n, h.param, h.srate, hrunning, by simp [hpend, h.evq],
    fun i hi => readWord_bufferEndMem_ne_none hi (h.written i hi),
    fun a ha => (read_bufferEndMem_other ha).trans (h.outside a ha)⟩

end Progress

/-- Settles O27: after j frames the FILL is in progress with j words written, and the buffer end keeps the
words written, as zeros where the buffer was bad. -/
theorem fillCompletesAfterItsFramesAndTwoSteps : Obligations.FillCompletesAfterItsFramesAndTwoSteps := by
  intro s fn fbuf halign hfip hstop hrun hfin hpos hin
  have hprogress (j : Nat) (hj : j ≤ fn.toNat) :=
    fillProgress_run halign hfip hstop hrun (rateAccepted_iff.mpr ⟨hfin, hpos⟩) hin hj
  refine ⟨fun k hk1 hk => ?_, ?_⟩
  · obtain ⟨t, ht, h⟩ := hprogress (k - 1) (by omega)
    rw [Nat.sub_add_cancel hk1] at ht
    exact ⟨t, ht, by rw [h.fill]⟩
  · obtain ⟨t, ht, h⟩ := hprogress fn.toNat le_rfl
    obtain ⟨u, hu, hfields⟩ := h.finish
    exact ⟨u, (core_run_succ ht).trans hu, hfields⟩

/-! ### Parameter commands and engine steps (43_engine.md R203) -/

/-- The instructions that write parameter registers and do nothing else (43_engine.md R203). -/
def Instr.IsSetter (i : Instr) : Prop :=
  (∃ w : Word,
      i = .setFreq w ∨ i = .setDetune w ∨ i = .setAttack w ∨ i = .setDecay w ∨ i = .setSustain w
        ∨ i = .setRelease w ∨ i = .setAlpha w ∨ i = .setStrength w)
    ∨ (∃ a : Byte, i = .setWave a ∨ i = .setVoices a ∨ i = .setOsr a)

/-- A parameter command writes PARAM, from PARAM alone, and changes nothing else. -/
theorem exec_setter {i : Instr} (h : Instr.IsSetter i) (s : State) :
    ∃ p : Params, exec i s = .next { s with param := p }
      ∧ ∀ u : State, u.param = s.param → exec i u = .next { u with param := p } := by
  suffices hset : ∃ p : Params, exec i s = .next { s with param := p }
      ∧ ∀ u : State, exec i { u with param := s.param } = .next { u with param := p } by
    obtain ⟨p, hs, hall⟩ := hset
    exact ⟨p, hs, fun u hu => by simpa [← hu] using hall u⟩
  rcases h with ⟨w, rfl | rfl | rfl | rfl | rfl | rfl | rfl | rfl⟩ | ⟨a, rfl | rfl | rfl⟩
  case inl.inr.inl =>
    by_cases hfin : isFinite w = true
    · exact ⟨_, if_pos hfin, fun _ => if_pos hfin⟩
    · exact ⟨_, if_neg hfin, fun _ => if_neg hfin⟩
  all_goals exact ⟨_, rfl, fun _ => rfl⟩

/-- The engine reads no parameter register and writes none: with another PARAM it takes the same step. -/
theorem engineStep_withParam (R : Realization) (s : State) (p : Params) :
    (∀ u, engineStep R s = .next u →
        u.param = s.param ∧ engineStep R { s with param := p } = .next { u with param := p })
      ∧ ∀ f, engineStep R s = .fault f → engineStep R { s with param := p } = .fault f := by
  rcases engineStep_cases R s with ⟨hfip, h⟩ | ⟨hfip, hj, hrate, h⟩ | ⟨hfip, hj, hrate, h⟩ | ⟨hfip, hj, h⟩
  · rw [h, engineStep_of_no_fill R (s := { s with param := p }) hfip]
    refine ⟨fun u hu => ?_, nofun⟩
    obtain rfl := Host.Outcome.next.inj hu
    exact ⟨rfl, rfl⟩
  · rw [h, engineStep_of_frame R (s := { s with param := p }) hfip hj hrate]
    refine ⟨fun u hu => ?_, nofun⟩
    obtain rfl := Host.Outcome.next.inj hu
    exact ⟨rfl, rfl⟩
  · rw [h, engineStep_of_bad_rate R (s := { s with param := p }) hfip hj hrate]
    exact ⟨fun _ hu => (nomatch hu), fun _ hf => hf⟩
  · rw [h, engineStep_of_buffer_end R (s := { s with param := p }) hfip hj]
    refine ⟨fun u hu => ?_, nofun⟩
    obtain rfl := Host.Outcome.next.inj hu
    rw [bufferEnd_fields, bufferEnd_fields]
    exact ⟨rfl, rfl⟩

/-- Settles O28: the command reads and writes PARAM only, and the engine does neither. -/
theorem settersDoNotReachTheFillInProgress : Obligations.SettersDoNotReachTheFillInProgress := by
  intro R s i hi
  obtain ⟨p, hs, hall⟩ := exec_setter hi s
  obtain ⟨hnext, hfault⟩ := engineStep_withParam R s p
  refine ⟨_, hs, rfl, fun u hu => ?_, hfault⟩
  obtain ⟨hparam, hstep⟩ := hnext u hu
  exact ⟨_, hstep, hall u hparam⟩

end Sys2Proof.Machine

/-! PROOFS. The word of a sounding frame (43_engine.md R194, R197, R199): the enclosure of every sample lies
in [-1, 1], so that its word is finite, and a word that a precision settles is toF32 of the exact sample. -/

namespace Sys2Proof.Machine

/-! ### Enclosures in bounds -/

theorem Ival.encloses.lo_le_hi {i : Ival} {x : ℝ} (h : i.encloses x) : i.lo ≤ i.hi := by
  exact_mod_cast h.1.trans h.2

section Within

variable {a b c d : Rat} {i j : Ival}

theorem Ival.Within.mono (h : i.Within a b) (hc : c ≤ a) (hd : b ≤ d) : i.Within c d := by
  obtain ⟨hlo, hle, hhi⟩ := h
  exact ⟨hc.trans hlo, hle, hhi.trans hd⟩

theorem Ival.within_point {q : Rat} (ha : a ≤ q) (hb : q ≤ b) : (Ival.point q).Within a b := ⟨ha, le_rfl, hb⟩

theorem Ival.Within.add (hi : i.Within a b) (hj : j.Within c d) : (i.add j).Within (a + c) (b + d) := by
  obtain ⟨hi1, hi2, hi3⟩ := hi
  obtain ⟨hj1, hj2, hj3⟩ := hj
  exact ⟨add_le_add hi1 hj1, add_le_add hi2 hj2, add_le_add hi3 hj3⟩

theorem Ival.Within.sub (hi : i.Within a b) (hj : j.Within c d) : (i.sub j).Within (a - d) (b - c) := by
  obtain ⟨hi1, hi2, hi3⟩ := hi
  obtain ⟨hj1, hj2, hj3⟩ := hj
  exact ⟨sub_le_sub hi1 hj3, sub_le_sub hi2 hj2, sub_le_sub hi3 hj1⟩

theorem Ival.Within.scale (h : i.Within a b) {q : Rat} (hq : 0 ≤ q) : (i.scale q).Within (a * q) (b * q) := by
  obtain ⟨hlo, hle, hhi⟩ := h
  rw [Ival.scale, if_pos hq]
  exact ⟨mul_le_mul_of_nonneg_right hlo hq, mul_le_mul_of_nonneg_right hle hq,
    mul_le_mul_of_nonneg_right hhi hq⟩

/-- The product with an exact number of at least 0. -/
theorem Ival.Within.point_mul (h : i.Within a b) {q : Rat} (hq : 0 ≤ q) :
    ((Ival.point q).mul i).Within (q * a) (q * b) := by
  obtain ⟨hlo, hle, hhi⟩ := h
  have hends : q * i.lo ≤ q * i.hi := mul_le_mul_of_nonneg_left hle hq
  simp only [Ival.mul, Ival.point, min_eq_left hends, max_eq_right hends, min_self, max_self]
  exact ⟨mul_le_mul_of_nonneg_left hlo hq, hends, mul_le_mul_of_nonneg_left hhi hq⟩

theorem Ival.Within.abs (h : i.Within (-b) b) : i.abs.Within 0 b := by
  obtain ⟨hlo, hle, hhi⟩ := h
  unfold Ival.abs
  split_ifs with h0 h1
  · exact ⟨h0, hle, hhi⟩
  · exact ⟨neg_nonneg.mpr h1, neg_le_neg hle, neg_le.mp hlo⟩
  · exact ⟨le_rfl, le_max_of_le_right (not_le.mp h1).le, max_le (neg_le.mp hlo) hhi⟩

/-- A phase lies in [0, 1]. -/
theorem Ival.phase_within {x : ℝ} (h : i.encloses x) (τ : Rat) : (i.phase τ).Within 0 1 := by
  have hle := (Ival.phase_encloses h τ).lo_le_hi
  unfold Ival.phase at hle ⊢
  dsimp only at hle ⊢
  split_ifs at hle ⊢ with hfloor
  · refine ⟨sub_nonneg.mpr (Int.floor_le _), hle, ?_⟩
    rw [hfloor]
    exact (Int.fract_lt_one (i.scale τ).hi).le
  · exact ⟨le_rfl, hle, le_rfl⟩

theorem Ival.Within.belowHalf (hi : i.Within a b) (hj : j.Within a b) (φ : Ival) :
    (φ.belowHalf i j).Within a b := by
  obtain ⟨hi1, hi2, hi3⟩ := id hi
  obtain ⟨hj1, hj2, hj3⟩ := id hj
  unfold Ival.belowHalf
  split_ifs
  · exact hi
  · exact hj
  · exact ⟨le_min hi1 hj1, (min_le_left _ _).trans (hi2.trans (le_max_left _ _)), max_le hi3 hj3⟩

theorem quarterSin_mem (p : Nat) (r : Rat) : 0 ≤ (quarterSin p r).lo ∧ (quarterSin p r).hi ≤ 1 := by
  unfold quarterSin
  split_ifs
  · exact ⟨le_rfl, zero_le_one⟩
  · exact ⟨zero_le_one, le_rfl⟩
  · decide +kernel
  · exact ⟨le_max_left _ _, min_le_left _ _⟩

theorem sinPoint_within (p : Nat) (φ : Rat) : (sinPoint p φ).Within (-1) 1 := by
  have hle := (sinPoint_encloses p φ).lo_le_hi
  obtain ⟨hlo, hhi⟩ := quarterSin_mem p (signedQuarter φ).1
  unfold sinPoint at hle ⊢
  dsimp only at hle ⊢
  split_ifs at hle ⊢
  · exact ⟨neg_le_neg hhi, hle, (neg_nonpos.mpr hlo).trans zero_le_one⟩
  · exact ⟨(by norm_num : (-1 : Rat) ≤ 0).trans hlo, hle, hhi⟩

theorem Ival.sinTurns_within (p : Nat) {φ : ℝ} (h : i.encloses φ) : (i.sinTurns p).Within (-1) 1 := by
  have hle := (Ival.sinTurns_encloses p h).lo_le_hi
  unfold Ival.sinTurns at hle ⊢
  split_ifs at hle ⊢
  · exact sinPoint_within p i.lo
  · exact ⟨le_max_left _ _, hle, min_le_left _ _⟩

end Within

/-! ### Samples in bounds (40_oscillator.md R112, 41_unison.md R135) -/

section Sample

variable {p : Nat} {keep : Bool}

theorem Tracked.abs_ival (x : Tracked) : x.abs.ival = (x.resolve 0).ival.abs := by
  unfold Tracked.abs Ival.abs
  dsimp only
  split_ifs
  · rfl
  · simp [Tracked.scale, Tracked.of, Ival.scale, Ival.neg]
  · rfl

theorem Tracked.resolve_within {x : Tracked} {a b c : Rat} (h : x.ival.Within a b) (ha : a ≤ c) (hb : c ≤ b) :
    (x.resolve c).ival.Within a b := by
  unfold Tracked.resolve
  split_ifs
  · exact Ival.within_point ha hb
  · exact h

theorem Tracked.abs_within {x : Tracked} {b : Rat} (hb : 0 ≤ b) (h : x.ival.Within (-b) b) :
    x.abs.ival.Within 0 b := by
  rw [Tracked.abs_ival]
  exact (Tracked.resolve_within h (neg_nonpos.mpr hb) hb).abs

theorem Tracked.belowHalf_ival (φ x y : Tracked) :
    (φ.belowHalf x y).ival = φ.ival.belowHalf x.ival y.ival := by
  unfold Tracked.belowHalf Ival.belowHalf
  split_ifs <;> rfl

/-- Every waveform at a phase of [0, 1] lies in [-1, 1]. -/
theorem raw_tracked_within {φ : Tracked} {x : ℝ} (hφ : φ.tracks x) (hphase : φ.ival.Within 0 1)
    (kind : WaveKind) (aa : Bool) : (raw (Numerics.tracked p keep) kind φ aa).ival.Within (-1) 1 := by
  let A := Numerics.tracked p keep
  have hline : (A.sub (A.mul (A.exact 2) φ) (A.exact 1)).ival.Within (-1) 1 :=
    ((hphase.point_mul zero_le_two).sub (Ival.within_point le_rfl le_rfl)).mono (by norm_num) (by norm_num)
  cases kind with
  | sine => exact Ival.sinTurns_within p hφ.1
  | sawtooth => exact hline
  | triangle =>
    have habs := Tracked.abs_within zero_le_one hline
    exact ((Ival.within_point le_rfl le_rfl).sub habs).mono (by norm_num) (by norm_num)
  | square =>
    have hamp : 0 ≤ (if aa then Config.sqAaAmpl else 1) ∧ (if aa then Config.sqAaAmpl else 1) ≤ 1 := by
      cases aa <;> decide +kernel
    rw [raw, show (Numerics.tracked p keep).belowHalf = Tracked.belowHalf from rfl, Tracked.belowHalf_ival]
    exact (Ival.within_point (by linarith) hamp.2).belowHalf
      (Ival.within_point (neg_le_neg hamp.2) (by linarith)) φ.ival

/-- What each step of a fold carries on, with the number of steps taken, the fold carries to the end. -/
theorem foldl_map_range_of_step {σ α : Type} {f : σ → α → σ} {P : Nat → σ → Prop} {g : Nat → α}
    (hstep : ∀ n s i, P n s → P (n + 1) (f s (g i))) {s : σ} (h : P 0 s) (n : Nat) :
    P n (((List.range n).map g).foldl f s) := by
  induction n with
  | zero => exact h
  | succ n ih =>
    rw [List.range_succ, List.map_append, List.foldl_append]
    exact hstep n _ n ih

/-- A sum of n numbers of [-1, 1]. -/
def SumWithin (n : Nat) (x : Tracked) : Prop := x.ival.Within (-(n : Rat)) n

theorem SumWithin.add {n : Nat} {x y : Tracked} (hx : SumWithin n x) (hy : y.ival.Within (-1) 1) :
    SumWithin (n + 1) (.map₂ .add .add x y) :=
  (Ival.Within.add hx hy).mono (by push_cast; linarith) (by push_cast; linarith)

theorem sumWithin_zero : SumWithin 0 (.of (.point 0) none) :=
  Ival.within_point (by simp) (by simp)

theorem SumWithin.mean {n : Nat} (hn : 1 ≤ n) {x : Tracked} (h : SumWithin n x) :
    (x.scale (n : Rat)⁻¹).ival.Within (-1) 1 := by
  have hn' : (n : Rat) ≠ 0 := by positivity
  have := Ival.Within.scale h (q := (n : Rat)⁻¹) (by positivity)
  rwa [neg_mul, mul_inv_cancel₀ hn'] at this

/-- The state of the filter after n sub-samples: its numbers track exact ones, and n smoothed outputs are
added up. -/
def FilterWithin (n : Nat) (s : Tracked × Tracked) : Prop :=
  (∃ s' : ℝ × ℝ, PairsRelated Tracked.tracks s s') ∧ SumWithin n s.2

/-- The clamp of R109 bounds each output, whatever the filter's state. -/
theorem FilterWithin.step {n : Nat} {s : Tracked × Tracked} (h : FilterWithin n s) (al st : Rat) {x : Tracked}
    (hx : ∃ x' : ℝ, x.tracks x') : FilterWithin (n + 1) (filterStep (Numerics.tracked p keep) al st s x) := by
  obtain ⟨⟨s', hs⟩, hsum⟩ := h
  obtain ⟨x', hx⟩ := hx
  have hA := tracked_refines_real p keep
  have hnext := hA.filterStep al st hs hx
  refine ⟨⟨_, hnext⟩, hsum.add (Tracked.clamp_within (hA.mul hnext.1 (hA.sub (hA.exact 1)
    (hA.mul (hA.abs hnext.1) (hA.exact st)))) (by norm_num))⟩

theorem oscSample_tracked_within (kind : WaveKind) {f : Tracked} {f' : ℝ} (hf : f.tracks f') (t sr : Rat)
    {r : Nat} (hr : 1 ≤ r) (al st : Rat) :
    (oscSample (Numerics.tracked p keep) kind f t sr r al st).ival.Within (-1) 1 := by
  have hA := tracked_refines_real p keep
  have hsub (k : Nat) : ∃ x', (subSample (Numerics.tracked p keep) kind f t sr r k).tracks x' :=
    ⟨_, hA.raw kind (hA.phase hf _) true⟩
  unfold oscSample
  split_ifs
  · exact raw_tracked_within (hA.phase hf t) (Ival.phase_within hf.1 t) kind false
  · obtain ⟨x', hx'⟩ := hsub 0
    have hstart : FilterWithin 0 (subSample (Numerics.tracked p keep) kind f t sr r 0,
        (Numerics.tracked p keep).exact 0) := ⟨⟨(x', _), hx', hA.exact 0⟩, sumWithin_zero⟩
    have hfold := foldl_map_range_of_step (P := FilterWithin) (f := filterStep (Numerics.tracked p keep) al st)
      (fun _ _ k h => h.step al st (hsub k)) hstart r
    exact hfold.2.mean hr

theorem mixVoices_tracked_within {f : Tracked} {f' : ℝ} (hf : f.tracks f') (kind : WaveKind) (v : Nat)
    (d : Word) (t sr : Rat) {r : Nat} (hr : 1 ≤ r) (al st : Rat) :
    (mixVoices (Numerics.tracked p keep) f kind v d t sr r al st).ival.Within (-1) 1 := by
  have hA := tracked_refines_real p keep
  have hv := one_le_validateUnison v d
  unfold mixVoices
  generalize validateUnison v d = u at hv
  obtain ⟨n, q⟩ := u
  dsimp only
  split_ifs
  · exact oscSample_tracked_within kind hf t sr hr al st
  · have hvoice (i : Nat) := oscSample_tracked_within (p := p) (keep := keep) kind
      (hA.mul hf (hA.exp2 (voiceOffset n q i / 1200))) t sr hr al st
    have hfold := foldl_map_range_of_step (P := SumWithin) (f := (Numerics.tracked p keep).add)
      (fun _ _ i h => h.add (hvoice i)) sumWithin_zero n
    exact hfold.mean hv

/-- The gain of [0, 1] keeps the mix in its bounds. -/
theorem sampleOut_tracked_within {o : FrameOperands} (h : o.legal) (p : Nat) (keep : Bool) :
    (sampleOut (Numerics.tracked p keep) o).ival.Within (-1) 1 := by
  obtain ⟨hgain0, hgain1, -, -, -, hosr, -⟩ := h
  have hmix := mixVoices_tracked_within (p := p) (keep := keep) (Tracked.point_tracks o.freq) o.kind o.voices
    o.detune o.time o.rate hosr o.alpha o.strength
  exact (hmix.point_mul hgain0).mono (by linarith) (by linarith)

end Sample

theorem isWordValue_neg_one : IsWordValue (-1) := ⟨0xBF800000#32, by decide, by decide +kernel⟩

/-- The reference word of legal operands lies in [-1, 1]. -/
theorem referenceWord_wordIn {o : FrameOperands} (h : o.legal) : wordIn (-1) 1 (referenceWord o) :=
  roundTracked_wordIn (sampleOut_tracked_within h) isWordValue_neg_one isWordValue_one _ _

/-- Settles O46: the word is that of a number in [-1, 1]. -/
theorem referenceWordIsFinite : Obligations.ReferenceWordIsFinite :=
  fun _ h => (referenceWord_wordIn h).1

/-! ### A settled word is toF32 of the exact real (00_scope.md R8; log entry 5) -/

theorem abs_sub_le_abs_sub_iff (u v w : ℝ) : |u - w| ≤ |u - v| ↔ 0 ≤ (w - v) * (2 * u - v - w) := by
  rw [← sq_le_sq, ← sub_nonneg, show (u - v) ^ 2 - (u - w) ^ 2 = (w - v) * (2 * u - v - w) by ring]

/-- The numbers no further from w than from v are those on one side of the middle of v and w; so they hold
every number between two of them, and the middle itself only as their end. -/
theorem abs_sub_le_of_between {x y z v w : ℝ} (hxy : x ≤ y) (hyz : y ≤ z) (hx : |x - w| ≤ |x - v|)
    (hz : |z - w| ≤ |z - v|) :
    |y - w| ≤ |y - v| ∧ (v ≠ w → |y - v| = |y - w| → y = x ∨ y = z) := by
  rw [abs_sub_le_abs_sub_iff] at hx hz
  have htie (h : |y - v| = |y - w|) := (abs_sub_le_abs_sub_iff y w v).mp h.le
  rcases lt_trichotomy v w with h | rfl | h
  · have hx' := (mul_nonneg_iff_of_pos_left (sub_pos.mpr h)).mp hx
    refine ⟨(abs_sub_le_abs_sub_iff y v w).mpr (mul_nonneg (sub_pos.mpr h).le (by linarith)), fun _ heq => ?_⟩
    have hy : 2 * y - w - v ≤ 0 := by nlinarith [htie heq]
    exact .inl (le_antisymm (by linarith) hxy)
  · exact ⟨le_rfl, fun h => absurd rfl h⟩
  · have hz' : 2 * z - v - w ≤ 0 := by nlinarith
    refine ⟨(abs_sub_le_abs_sub_iff y v w).mpr (mul_nonneg_of_nonpos_of_nonpos (sub_neg.mpr h).le
      (by linarith)), fun _ heq => ?_⟩
    have hy := (mul_nonneg_iff_of_pos_left (sub_pos.mpr h)).mp (htie heq)
    exact .inr (le_antisymm hyz (by linarith))

theorem IsToF32.of_between {x y z : ℝ} {w : Word} (hx : IsToF32 x w) (hz : IsToF32 z w) (hxy : x ≤ y)
    (hyz : y ≤ z) : IsToF32 y w := by
  obtain ⟨hfin, hnear, heven, hsign⟩ := hx
  obtain ⟨-, hnear', heven', hsign'⟩ := hz
  have hbetween (v : Word) (hv : isFinite v = true) :=
    abs_sub_le_of_between hxy hyz (hnear v hv) (hnear' v hv)
  refine ⟨hfin, fun v hv => (hbetween v hv).1, fun v hv hne heq => ?_, fun h => ?_, fun h => ?_⟩
  · rcases (hbetween v hv).2 (by exact_mod_cast hne) heq with rfl | rfl
    · exact heven v hv hne heq
    · exact heven' v hv hne heq
  · exact hyz.trans_lt (hsign'.mp h)
  · exact hsign.mpr (hxy.trans_lt h)

/-- A number between two word values is below the overflow range. -/
theorem abs_le_largest_of_mem {lo hi q : Rat} (hlo : IsWordValue lo) (hhi : IsWordValue hi)
    (h : lo ≤ q ∧ q ≤ hi) : |q| ≤ f32 0x7F7FFFFF#32 := by
  obtain ⟨a, ha, rfl⟩ := hlo
  obtain ⟨b, hb, rfl⟩ := hhi
  exact abs_le.mpr ⟨(abs_le.mp (abs_f32_le_largest ha)).1.trans h.1,
    h.2.trans (abs_le.mp (abs_f32_le_largest hb)).2⟩

section Settled

variable {lo hi : Rat} (hlo : IsWordValue lo) (hhi : IsWordValue hi)

include hlo hhi

theorem Tracked.isToF32_word {x : Tracked} {r : ℝ} (hx : x.tracks r) (h : x.ival.Within lo hi) {w : Word}
    (hw : x.word = some w) : IsToF32 r w := by
  have hround {q : Rat} (hq : lo ≤ q ∧ q ≤ hi) : IsToF32 (q : ℝ) (toF32 q) :=
    toF32RoundsToNearestEven q (abs_le_largest_of_mem hlo hhi hq)
  obtain ⟨h1, h2, h3⟩ := id h
  unfold Tracked.word at hw
  split_ifs at hw with hends hzero
  · obtain rfl := Option.some.inj hw
    have hhigh := hround ⟨h1.trans h2, h3⟩
    rw [← eq_of_beq hends] at hhigh
    exact (hround ⟨h1, h2.trans h3⟩).of_between hhigh hx.1.1 hx.1.2
  · obtain rfl := Option.some.inj hw
    rw [Tracked.eq_of_isZero hx hzero]
    exact hround (h.boundary_mem hlo hhi)

variable {enc : Nat → Bool → Tracked} {r : ℝ} (htracks : ∀ p keep, (enc p keep).tracks r)
  (hwithin : ∀ p keep, (enc p keep).ival.Within lo hi)

include htracks hwithin

theorem isToF32_wordAt {p : Nat} {w : Word} (hw : wordAt enc p = some w) : IsToF32 r w := by
  unfold wordAt at hw
  split at hw
  · next v hv =>
    obtain rfl := Option.some.inj hw
    exact Tracked.isToF32_word hlo hhi (htracks p false) (hwithin p false) hv
  · exact Tracked.isToF32_word hlo hhi (htracks p true) (hwithin p true) hw

/-- Where one of the n precisions settles the word, the first that does gives it. -/
theorem isToF32_roundTracked {n p k : Nat} (hk : k < n) (hsettles : wordAt enc (p * 2 ^ k) ≠ none) :
    IsToF32 r (roundTracked enc n p) := by
  induction n generalizing p k with
  | zero => exact absurd hk (Nat.not_lt_zero k)
  | succ n ih =>
    unfold roundTracked
    split
    · next w hw => exact isToF32_wordAt hlo hhi htracks hwithin hw
    · next hnone =>
      cases k with
      | zero => exact absurd hnone (by simpa using hsettles)
      | succ k =>
        refine ih (Nat.lt_of_succ_lt_succ hk) ?_
        rwa [pow_succ', ← mul_assoc, mul_comm p 2] at hsettles

end Settled

/-- Settles O45: the first precision that settles the word encloses the exact sample in [-1, 1]. -/
theorem referenceWordIsTheRoundedExactSample : Obligations.ReferenceWordIsTheRoundedExactSample := by
  intro o hlegal ⟨k, hk, hsettles⟩
  exact isToF32_roundTracked isWordValue_neg_one isWordValue_one
    (fun p keep => (tracked_refines_real p keep).sampleOut o) (sampleOut_tracked_within hlegal) hk hsettles

/-! ### The reference silences no buffer (43_engine.md R199) -/

/-- A step from s to t that leaves BADBUF clear, and neither sets SILENCED nor records NONFINITE_OUTPUT. -/
def SilencesNothing (s t : State) : Prop :=
  t.fill.badBuf = false ∧ (t.status.silenced = true → s.status.silenced = true)
    ∧ (t.lastErr = 0x06#8 → s.lastErr = 0x06#8)

theorem Status.silenced_of_record {st : Status} {c : Condition} (h : (st.record c).silenced = true) :
    c = .nonfiniteOutput ∨ st.silenced = true := by
  cases c with
  | nonfiniteOutput => exact .inl rfl
  | _ => exact .inr h

theorem Condition.eq_of_code {c : Condition} (h : c.code = 0x06#8) : c = .nonfiniteOutput := by
  revert h
  cases c <;> decide

theorem conditionOf_ne_nonfiniteOutput (c : BadCommand) : conditionOf c ≠ .nonfiniteOutput := by
  cases c <;> decide

/-- From the invariant every frame word of the reference is finite. -/
theorem isFinite_frameWord_reference {s : State} (hinv : s.Inv) (hrate : rateAccepted s.srate = true) :
    isFinite (frameWord .reference s (frameEnvelope s)) = true := by
  unfold frameWord
  split_ifs with hsilent
  · decide
  · exact referenceWordIsFinite _ (frameOperands_legal hinv hrate fun h => hsilent (.inr h))

section Silence

variable {s t : State} (hbad : s.fill.badBuf = false)

include hbad

theorem silencesNothing_raise {c : Condition} (hc : c ≠ .nonfiniteOutput) : SilencesNothing s (s.raise c) := by
  exact ⟨hbad, fun h => (Status.silenced_of_record h).resolve_left hc,
    fun h => absurd (Condition.eq_of_code h) hc⟩

theorem silencesNothing_noteEvent (e : NoteEvent) : SilencesNothing s (s.noteEvent e) := by
  rcases s.noteEvent_cases e with ⟨-, h⟩ | ⟨-, -, h⟩ | ⟨-, -, h⟩ <;> rw [h]
  · exact ⟨hbad, id, id⟩
  · exact silencesNothing_raise hbad nofun
  · exact ⟨hbad, id, id⟩

theorem Instr.Effect.silencesNothing {i : Instr} (h : Effect s i t) : SilencesNothing s t := by
  cases h with
  | noteEvent i p hp e => exact silencesNothing_noteEvent (s := { s with param := p }) hbad e
  | badRate => exact silencesNothing_raise hbad nofun
  | fillStopped => exact silencesNothing_raise (s := { s with mem := _ }) hbad nofun
  | clearConditions => exact ⟨hbad, nofun, nofun⟩
  | bufferStart => exact ⟨rfl, id, id⟩
  | setParam | beginSession | stopIgnored | stopDeferred | endSession | reply => exact ⟨hbad, id, id⟩

theorem silencesNothing_bufferEnd : SilencesNothing s (bufferEnd s) := by
  have hkept : silenceBadBuffer s = s := if_neg (by simp [hbad])
  rw [bufferEnd_eq, hkept]
  split_ifs <;> exact ⟨rfl, id, id⟩

theorem silencesNothing_engineStep (hinv : s.Inv) (h : engineStep .reference s = .next t) :
    SilencesNothing s t := by
  rcases engineStep_cases .reference s with ⟨-, h'⟩ | ⟨-, -, hrate, h'⟩ | ⟨-, -, -, h'⟩ | ⟨-, -, h'⟩ <;>
    rw [h'] at h
  · obtain rfl := Host.Outcome.next.inj h
    exact ⟨hbad, id, id⟩
  · obtain rfl := Host.Outcome.next.inj h
    refine ⟨?_, id, id⟩
    rw [frameNext_fill, hbad, isFinite_frameWord_reference hinv hrate]
    rfl
  · exact nomatch h
  · obtain rfl := Host.Outcome.next.inj h
    exact silencesNothing_bufferEnd hbad

end Silence

/-- Settles O59: every frame word of the reference is finite, so BADBUF stays clear, and only the buffer end
of a bad buffer records NONFINITE_OUTPUT. -/
theorem referenceNeverSilencesABuffer : Obligations.ReferenceNeverSilencesABuffer := by
  intro s t hinv hbad hstep
  rcases stepOf_cases hstep with ⟨rest, -, h⟩ | ⟨-, rest, i, -, -, h⟩ | ⟨rest, c, rfl⟩
  · exact silencesNothing_engineStep (s := { s with inputs := rest }) hbad hinv h
  · exact Instr.Effect.silencesNothing (s := { s with inputs := rest }) hbad (exec_effect h)
  · exact silencesNothing_raise (s := { s with inputs := rest }) hbad (conditionOf_ne_nonfiniteOutput c)

end Sys2Proof.Machine

/-! PROOFS. The control commands (44_control.md R220 to R242): what the setters' clamps store in words, the
note events and NOTE_ON's frequency, the transport commands, and the step that runs a command. -/

namespace Sys2Proof.Machine

/-! ### The clamps, in words (44_control.md R228, R242) -/

/-- A word that is neither a NaN nor an infinity is finite (00_scope.md R9). -/
theorem isFinite_of_not_special {w : Word} (hnan : isNaN w ≠ true) (hpos : w ≠ posInf) (hneg : w ≠ negInf) :
    isFinite w = true := by
  rw [isFinite_iff]
  intro hexp
  have hfrac : fracField w = 0 := by simpa [isNaN, hexp] using hnan
  have hw := toNat_eq_fields w
  rw [hexp, hfrac] at hw
  split_ifs at hw
  · exact hneg (BitVec.eq_of_toNat_eq hw)
  · exact hpos (BitVec.eq_of_toNat_eq hw)

/-- The word of a finite operand clamped to [lo, hi]: the operand itself inside the range, where it is above
0 and so not -0.0. -/
theorem toF32_clampRat_f32 {w : Word} (hw : isFinite w = true) {lo hi : Rat} (h0 : 0 ≤ lo) (hle : lo ≤ hi) :
    toF32 (clampRat (f32 w) lo hi)
      = if f32 w ≤ lo then toF32 lo else if hi ≤ f32 w then toF32 hi else w := by
  unfold clampRat
  split_ifs with hlow hhigh
  · rw [max_eq_right hlow, min_eq_left hle]
  · rw [max_eq_left (not_le.mp hlow).le, min_eq_right hhigh]
  · rw [max_eq_left (not_le.mp hlow).le, min_eq_left (not_le.mp hhigh).le]
    refine toF32OfF32IsTheWord w hw ?_
    rintro rfl
    have hzero : f32 0x80000000#32 = 0 := by decide +kernel
    exact hlow (hzero.trans_le h0)

/-- What a clamping setter stores of W, with the words of the bounds and of the default for a NaN. -/
def clampedWord (w : Word) (lo hi : Rat) (loWord hiWord dflt : Word) : Word :=
  if isNaN w = true then dflt
  else if w = posInf then hiWord
  else if w = negInf then loWord
  else if f32 w ≤ lo then loWord
  else if hi ≤ f32 w then hiWord
  else w

/-- LEVEL_CLAMP, with bounds and a default whose values are written back as their words. -/
theorem toF32_levelClamp (w : Word) {lo hi : Rat} {loWord hiWord dflt : Word} (h0 : 0 ≤ lo) (hle : lo ≤ hi)
    (hlo : toF32 lo = loWord) (hhi : toF32 hi = hiWord) (hdflt : toF32 (f32 dflt) = dflt) :
    toF32 (levelClamp w lo hi dflt) = clampedWord w lo hi loWord hiWord dflt := by
  unfold levelClamp clampedWord
  by_cases hnan : isNaN w = true
  · rw [if_pos hnan, if_pos hnan, hdflt]
  by_cases hpos : w = posInf
  · rw [if_neg hnan, if_neg hnan, if_pos hpos, if_pos hpos, hhi]
  by_cases hneg : w = negInf
  · rw [if_neg hnan, if_neg hnan, if_neg hpos, if_neg hpos, if_pos hneg, if_pos hneg, hlo]
  · rw [if_neg hnan, if_neg hnan, if_neg hpos, if_neg hpos, if_neg hneg, if_neg hneg,
      toF32_clampRat_f32 (isFinite_of_not_special hnan hpos hneg) h0 hle, hlo, hhi]

/-- Where a NaN stores the lower bound, it is one case with -inf. -/
theorem clampedWord_of_default_low (w : Word) (lo hi : Rat) (loWord hiWord : Word) :
    clampedWord w lo hi loWord hiWord loWord
      = if isNaN w = true ∨ w = negInf then loWord
        else if w = posInf then hiWord
        else if f32 w ≤ lo then loWord
        else if hi ≤ f32 w then hiWord
        else w := by
  unfold clampedWord
  by_cases hnan : isNaN w = true
  · rw [if_pos hnan, if_pos (.inl hnan)]
  by_cases hneg : w = negInf
  · have hpos : w ≠ posInf := by rw [hneg]; decide
    rw [if_neg hnan, if_neg hpos, if_pos hneg, if_pos (.inr hneg)]
  · rw [if_neg hnan, if_neg hneg, if_neg (not_or.mpr ⟨hnan, hneg⟩)]

/-! ### The words of the clamps' bounds and defaults (10_state.md R22 to R32) -/

theorem toF32_zero : toF32 0 = 0x00000000#32 := rfl

theorem toF32_one : toF32 1 = 0x3F800000#32 := by decide +kernel

theorem toF32_freqMax : toF32 Config.freqMax = 0x469C4000#32 := by decide +kernel

theorem toF32_dMax : toF32 Config.dMax = 0x42C80000#32 := by decide +kernel

theorem toF32_durMax : toF32 Config.durMax = 0x41200000#32 := by decide +kernel

theorem toF32_half : toF32 (1 / 2) = 0x3F000000#32 := by decide +kernel

theorem strengthMax_eq : Config.strengthMax = 1 / 2 := Rat.mkRat_eq_div 1 2

/-- FREQ_CLAMP is LEVEL_CLAMP to [0, FREQ_MAX] with the default 0. -/
theorem toF32_freqClamp (w : Word) :
    toF32 (freqClamp w) = clampedWord w 0 Config.freqMax 0x00000000#32 0x469C4000#32 0x00000000#32 := by
  have hclamp : freqClamp w = levelClamp w 0 Config.freqMax 0x00000000#32 := by
    rw [freqClamp, levelClamp, f32_zero]
  rw [hclamp]
  exact toF32_levelClamp w le_rfl (by decide) toF32_zero toF32_freqMax
    (toF32OfF32IsTheWord _ (by decide) (by decide))

/-- DUR_CLAMP is LEVEL_CLAMP to [EPS_DUR, DUR_MAX]. -/
theorem toF32_durClamp (w : Word) {dflt : Word} (hfin : isFinite dflt = true) (hneg : dflt ≠ 0x80000000#32) :
    toF32 (durClamp w dflt)
      = clampedWord w (f32 Config.epsDur) Config.durMax 0x3A83126F#32 0x41200000#32 dflt :=
  toF32_levelClamp w (by decide +kernel) (by decide +kernel)
    (toF32OfF32IsTheWord Config.epsDur (by decide) (by decide)) toF32_durMax
    (toF32OfF32IsTheWord dflt hfin hneg)

/-! ### The setters, one equation each (44_control.md R225 to R235) -/

section Setters

variable (s : State) (w : Word)

theorem exec_setFreq : exec (.setFreq w) s = .next (s.setFreqGroup { freq := toF32 (freqClamp w) }) := rfl

theorem exec_setAttack : exec (.setAttack w) s
    = .next (s.setEnvpGroup { s.param.envpGroup with attack := toF32 (durClamp w Config.attackReset) }) := rfl

theorem exec_setDecay : exec (.setDecay w) s
    = .next (s.setEnvpGroup { s.param.envpGroup with decay := toF32 (durClamp w Config.decayReset) }) := rfl

theorem exec_setRelease : exec (.setRelease w) s
    = .next (s.setEnvpGroup { s.param.envpGroup with release := toF32 (durClamp w Config.releaseReset) }) := rfl

theorem exec_setSustain : exec (.setSustain w) s
    = .next (s.setEnvpGroup
        { s.param.envpGroup with sustain := toF32 (levelClamp w 0 1 Config.sustainReset) }) := rfl

theorem exec_setAlpha : exec (.setAlpha w) s
    = .next (s.setQualGroup
        { s.param.qualGroup with alpha := toF32 (levelClamp w 0 1 Config.alphaReset) }) := rfl

theorem exec_setStrength : exec (.setStrength w) s
    = .next (s.setQualGroup
        { s.param.qualGroup with
          strength := toF32 (levelClamp w 0 Config.strengthMax 0x00000000#32) }) := rfl

theorem exec_setDetune_of_finite (h : isFinite w = true) : exec (.setDetune w) s
    = .next (s.setVoiceGroup { s.param.voiceGroup with detune := toF32 (clampRat (f32 w) 0 Config.dMax) }) :=
  if_pos h

theorem exec_setDetune_of_not_finite (h : ¬ isFinite w = true) : exec (.setDetune w) s
    = .next (s.setVoiceGroup { s.param.voiceGroup with voices := 1#4, detune := toF32 0 }) := if_neg h

end Setters

section CountSetters

variable (s : State) (a : Byte)

theorem exec_setWave : exec (.setWave a) s
    = .next (s.setVoiceGroup { s.param.voiceGroup with wave := waveOfCode (a.extractLsb' 0 2) }) := rfl

theorem exec_setVoices : exec (.setVoices a) s
    = .next (s.setVoiceGroup { s.param.voiceGroup with voices := BitVec.ofNat 4 (countClamp a 1 8) }) := rfl

theorem exec_setOsr : exec (.setOsr a) s
    = .next (s.setQualGroup { s.param.qualGroup with osr := BitVec.ofNat 5 (countClamp a 1 16) }) := rfl

end CountSetters

/-- Settles O8: FREQ takes the clamped word. -/
theorem setFreqStoresTheClampedFrequency : Obligations.SetFreqStoresTheClampedFrequency := by
  intro s w
  rw [exec_setFreq, toF32_freqClamp, clampedWord_of_default_low]
  rfl

/-- Settles O9: the three registers share DUR_CLAMP, with a default each. -/
theorem durationSettersStoreTheClampedDuration : Obligations.DurationSettersStoreTheClampedDuration := by
  intro s w
  refine ⟨?attack, ?decay, ?release⟩
  case attack =>
    rw [exec_setAttack, toF32_durClamp w (by decide) (by decide)]
    rfl
  case decay =>
    rw [exec_setDecay, toF32_durClamp w (by decide) (by decide)]
    rfl
  case release =>
    rw [exec_setRelease, toF32_durClamp w (by decide) (by decide)]
    rfl

/-- Settles O10: the three registers share LEVEL_CLAMP from 0, with an upper bound and a default each. -/
theorem levelSettersStoreTheClampedLevel : Obligations.LevelSettersStoreTheClampedLevel := by
  intro s w
  have h {hi : Rat} {hiWord dflt : Word} (hle : 0 ≤ hi) (hhi : toF32 hi = hiWord)
      (hfin : isFinite dflt = true) (hneg : dflt ≠ 0x80000000#32) :
      toF32 (levelClamp w 0 hi dflt) = clampedWord w 0 hi 0x00000000#32 hiWord dflt :=
    toF32_levelClamp w le_rfl hle toF32_zero hhi (toF32OfF32IsTheWord dflt hfin hneg)
  refine ⟨?sustain, ?alpha, ?strength⟩
  case sustain =>
    rw [exec_setSustain, h zero_le_one toF32_one (by decide) (by decide)]
    rfl
  case alpha =>
    rw [exec_setAlpha, h zero_le_one toF32_one (by decide) (by decide)]
    rfl
  case strength =>
    rw [exec_setStrength, strengthMax_eq, h (by norm_num) toF32_half (by decide) (by decide)]
    rfl

/-- Settles O11: a finite detune is clamped, and any other falls back. -/
theorem setDetuneClampsOrFallsBack : Obligations.SetDetuneClampsOrFallsBack := by
  intro s w
  by_cases hfin : isFinite w = true
  · rw [if_pos hfin, exec_setDetune_of_finite s w hfin, toF32_clampRat_f32 hfin le_rfl (by decide), toF32_zero,
      toF32_dMax]
    rfl
  · rw [if_neg hfin, exec_setDetune_of_not_finite s w hfin, toF32_zero]
    rfl

theorem waveOfCode_eq (k : BitVec 2) :
    waveOfCode k
      = if k.toNat = 0 then .sine else if k.toNat = 1 then .triangle
        else if k.toNat = 2 then .square else .sawtooth := by
  revert k
  decide

/-- A count clamped to [lo, hi], in the k bits of its register. -/
theorem ofNat_countClamp (k : Nat) (a : Byte) {lo hi : Nat} (hle : lo ≤ hi) :
    BitVec.ofNat k (countClamp a lo hi)
      = if a.toNat < lo then BitVec.ofNat k lo else if hi < a.toNat then BitVec.ofNat k hi
        else BitVec.ofNat k a.toNat := by
  unfold countClamp
  split_ifs with hlow hhigh
  · rw [max_eq_right hlow.le, min_eq_left hle]
  · rw [max_eq_left (not_lt.mp hlow), min_eq_right hhigh.le]
  · rw [max_eq_left (not_lt.mp hlow), min_eq_left (not_lt.mp hhigh)]

/-- Settles O12: a waveform by its two low bits, a count by its clamp. -/
theorem codeAndCountSettersStoreTheirOperand : Obligations.CodeAndCountSettersStoreTheirOperand := by
  intro s a
  refine ⟨?wave, ?voices, ?osr⟩
  case wave =>
    rw [exec_setWave, waveOfCode_eq, BitVec.extractLsb'_toNat, Nat.shiftRight_zero]
    rfl
  case voices =>
    rw [exec_setVoices, ofNat_countClamp 4 a (by decide)]
    rfl
  case osr =>
    rw [exec_setOsr, ofNat_countClamp 5 a (by decide)]
    rfl

/-! ### Note events (44_control.md R220 to R224, R240) -/

/-- A note event of a command, as one equation. -/
theorem State.noteEvent_eq (s : State) (e : NoteEvent) :
    s.noteEvent e
      = if s.status.running = false then s
        else if s.evq.length = 16 then
          { s with status := { s.status with evqOvf := true }, lastErr := 0x04#8 }
        else { s with evq := s.evq ++ [e] } := by
  rcases s.noteEvent_cases e with ⟨hrun, h⟩ | ⟨hrun, hfull, h⟩ | ⟨hrun, hroom, h⟩
  · rw [if_pos hrun, h]
  · rw [if_neg (by simp [hrun]), h]
    exact (if_pos hfull).symm
  · rw [if_neg (by simp [hrun]), h]
    exact (if_neg hroom).symm

theorem execNoteOn_of_velocity_zero (note : Byte) (s : State) :
    execNoteOn note 0#8 s = .next (s.noteEvent (.stop note)) := if_pos rfl

theorem execNoteOn_of_velocity_ne_zero {vel : Byte} (h : vel ≠ 0#8) (note : Byte) (s : State) :
    execNoteOn note vel s
      = .next ({ s with param := { s.param with freqGroup := { freq := noteWord note } } }.noteEvent
          (.start note)) := if_neg h

/-- Settles O13: each of the three commands is its note event. -/
theorem noteEventsAreQueuedDroppedOrDiscarded : Obligations.NoteEventsAreQueuedDroppedOrDiscarded := by
  rintro s i e (⟨⟨⟩⟩ | ⟨n, ⟨⟩⟩ | ⟨tok, ⟨⟩⟩) <;> exact congrArg Host.Outcome.next (s.noteEvent_eq _)

/-- Settles O14: the first branch of NOTE_ON is NOTE_OFF's event. -/
theorem noteOnWithVelocityZeroIsNoteOff : Obligations.NoteOnWithVelocityZeroIsNoteOff :=
  fun s n => execNoteOn_of_velocity_zero n s

/-! ### Octaves of a word (00_scope.md R8) -/

theorem NearestEven.unique {z : Rat} {m m' : Nat} (h : NearestEven z m) (h' : NearestEven z m') : m = m' := by
  by_contra hne
  obtain ⟨hle, heven⟩ := h.le_of_int m'
  obtain ⟨hle', heven'⟩ := h'.le_of_int m
  have heq : |z - (m' : ℤ)| = |z - m| := le_antisymm hle' hle
  have hm : m % 2 = 0 := heven (by exact_mod_cast Ne.symm hne) heq
  have hm' : m' % 2 = 0 := heven' (by exact_mod_cast hne) heq.symm
  have hnear : |(m : Rat) - m'| ≤ 1 := by
    have htri := abs_sub_le (m : Rat) z m'
    rw [abs_sub_comm (m : Rat) z] at htri
    linarith [h.1, h'.1]
  have hnear' : |(m : ℤ) - m'| ≤ 1 := by exact_mod_cast hnear
  rw [abs_le] at hnear'
  omega

theorem binade_eq {n d : Nat} (hn : 0 < n) (hd : 0 < d) {e : ℤ} (he : -126 ≤ e) (hlow : (2 : Rat) ^ e ≤ n / d)
    (hhigh : (n : Rat) / d < 2 ^ (e + 1)) : binade n d = e := by
  have hge : e < binade n d + 1 :=
    (zpow_lt_zpow_iff_right₀ one_lt_two).mp (hlow.trans_lt (lt_binade hn hd))
  have hle (h : -126 < binade n d) : binade n d < e + 1 :=
    (zpow_lt_zpow_iff_right₀ one_lt_two).mp ((binade_le hn hd h).trans_lt hhigh)
  have := neg_126_le_binade n d
  omega

theorem natAbs_num_div_den {q : Rat} (hq : 0 ≤ q) : (q.num.natAbs : Rat) / q.den = q := by
  rw [Nat.cast_natAbs, abs_of_nonneg (Rat.num_nonneg.mpr hq), Rat.num_div_den]

/-- The word of a number above 0 in the binade of e, by its significand. -/
theorem toF32_toNat_of_binade {q : Rat} {e : ℤ} {m : Nat} (he : -126 ≤ e) (hlow : 2 ^ e ≤ q)
    (hhigh : q < 2 ^ (e + 1)) (hm : NearestEven (q * 2 ^ (23 - e)) m) :
    (toF32 q).toNat = min ((e + 126).toNat * 2 ^ 23 + m) 0x7F800000 := by
  have hq : 0 < q := lt_of_lt_of_le (by positivity) hlow
  have hn : 0 < q.num.natAbs := Int.natAbs_pos.mpr (Rat.num_ne_zero.mpr hq.ne')
  obtain ⟨m', hm', hround⟩ := roundMagnitude_cases q.num.natAbs q.den_pos
  have hbinade : binade q.num.natAbs q.den = e := by
    refine binade_eq hn q.den_pos he ?_ ?_ <;> rwa [natAbs_num_div_den hq.le]
  rw [hbinade, natAbs_num_div_den hq.le] at hm'
  rw [toF32, if_neg (Rat.num_ne_zero.mpr hq.ne'), if_neg (not_lt.mpr (Rat.num_nonneg.mpr hq.le)), hround,
    hbinade, hm'.unique hm, BitVec.toNat_ofNat]
  omega

/-- From the least normal number on, k octaves add k to the exponent field and keep the fraction. -/
theorem toF32_mul_two_pow {q : Rat} (hlow : 2 ^ (-126 : ℤ) ≤ q) (k : Nat)
    (hmax : q * 2 ^ k ≤ f32 0x7F7FFFFF#32) :
    (toF32 (q * 2 ^ k)).toNat = (toF32 q).toNat + k * 2 ^ 23 := by
  have hq : 0 < q := lt_of_lt_of_le (by positivity) hlow
  have hn : 0 < q.num.natAbs := Int.natAbs_pos.mpr (Rat.num_ne_zero.mpr hq.ne')
  obtain ⟨m, hm, -⟩ := roundMagnitude_cases q.num.natAbs q.den_pos
  have he := neg_126_le_binade q.num.natAbs q.den
  have hle := binade_le hn q.den_pos
  have hhigh := lt_binade hn q.den_pos
  rw [natAbs_num_div_den hq.le] at hm hle hhigh
  generalize binade q.num.natAbs q.den = e at *
  have hle : 2 ^ e ≤ q := by
    rcases he.eq_or_lt with rfl | he'
    · exact hlow
    · exact hle he'
  have hpow (a : ℤ) : (2 : Rat) ^ (a + k) = 2 ^ a * 2 ^ k := by
    rw [zpow_add₀ two_ne_zero, zpow_natCast]
  have hlow' : 2 ^ (e + k) ≤ q * 2 ^ k := by
    rw [hpow]
    gcongr
  have hhigh' : q * 2 ^ k < 2 ^ (e + k + 1) := by
    rw [add_right_comm, hpow]
    gcongr
  have hm' : NearestEven (q * 2 ^ k * 2 ^ (23 - (e + k))) m := by
    rwa [mul_assoc, ← zpow_natCast, ← zpow_add₀ two_ne_zero, show (k : ℤ) + (23 - (e + k)) = 23 - e by ring]
  obtain ⟨hm24, -, he127, hm127⟩ := hm'.significand_bounds (by omega) (fun _ => hlow') hhigh' hmax
  rw [toF32_toNat_of_binade (by omega) hlow' hhigh' hm', toF32_toNat_of_binade he hle hhigh hm]
  omega

/-! ### Octaves of 2^x (44_control.md R241) -/

theorem pow2_nonneg (k : ℤ) : 0 ≤ pow2 k := by
  rw [pow2_eq]
  positivity

theorem Ival.scale_scale (i : Ival) {a b : Rat} (ha : 0 ≤ a) (hb : 0 ≤ b) :
    (i.scale a).scale b = i.scale (a * b) := by
  simp only [Ival.scale, if_pos ha, if_pos hb, if_pos (mul_nonneg ha hb), mul_assoc]

theorem Ival.scale_point (q : Rat) {a : Rat} (ha : 0 ≤ a) : (Ival.point q).scale a = .point (q * a) := by
  simp only [Ival.scale, if_pos ha, Ival.point]

/-- Whole octaves scale the enclosure of 2^x, which is made from the fractional part of x. -/
theorem exp2Enclosure_add_intCast (p : Nat) (x : Rat) (k : ℤ) :
    exp2Enclosure p (x + k) = (exp2Enclosure p x).scale (pow2 k) := by
  have hfloor : (x + k).floor = x.floor + k := Int.floor_add_intCast x k
  have hfract : x + k - ((x.floor + k : ℤ) : Rat) = x - x.floor := by
    push_cast
    ring
  have hpow : pow2 (x.floor + k) = pow2 x.floor * pow2 k := by
    rw [pow2_eq, pow2_eq, pow2_eq, zpow_add₀ two_ne_zero]
  unfold exp2Enclosure
  simp only [hfloor, hfract, hpow]
  split_ifs
  · rw [Ival.scale_point _ (pow2_nonneg k)]
  · rw [Ival.scale_scale _ (pow2_nonneg _) (pow2_nonneg k)]

/-- The exponent of NOTE_FREQ(n). -/
def noteExponent (n : Nat) : Rat := mkRat ((n : ℤ) - Config.a4Note) 12

theorem noteExponent_octave (j o : Nat) : noteExponent (12 * o + j) = noteExponent j + (o : ℤ) := by
  simp only [noteExponent, Rat.mkRat_eq_div]
  push_cast
  ring

/-! ### NOTE_ON's frequency (44_control.md R221, R241) -/

/-- The number whose word NOTE_ON stores, as the model tracks it. -/
def noteTracked (n : Byte) (p : Nat) (keep : Bool) : Tracked :=
  (noteFreq (Numerics.tracked p keep) n).clamp 0 Config.freqMax

theorem noteWord_eq (n : Byte) :
    noteWord n = roundTracked (noteTracked n) Config.precisionSteps Config.firstPrecision := by
  unfold noteWord noteTracked
  rfl

/-- A number whose enclosure lies between the bounds is not clamped. -/
theorem Tracked.clamp_of_within {x : Tracked} {lo hi : Rat} (hlo : lo ≤ x.ival.lo) (hhi : x.ival.hi ≤ hi) :
    x.clamp lo hi = x := by
  have hres {c : Rat} (h : ¬ (x.ival.lo < c ∧ c < x.ival.hi)) : x.resolve c = x :=
    if_neg fun ⟨h1, h2, _⟩ => h ⟨h1, h2⟩
  unfold Tracked.clamp
  rw [hres fun h => h.1.not_ge hlo, hres fun h => h.2.not_ge hhi]
  exact if_pos ⟨hlo, hhi⟩

/-- The same number from the enclosure of its power of 2, without exact numbers. -/
def noteOfPower (i : Ival) : Tracked :=
  (Tracked.map₂ .mul .mul (.of (.point Config.a4Freq) none) (.of i none)).clamp 0 Config.freqMax

theorem noteTracked_false (n : Byte) (p : Nat) :
    noteTracked n p false = noteOfPower (exp2Enclosure p (noteExponent n.toNat)) := rfl

/-- Between the clamp's bounds the ends are those of the power of 2, times A4_FREQ. -/
theorem noteOfPower_ival {i : Ival} (h0 : 0 ≤ i.lo) (hle : i.lo ≤ i.hi) (hmax : 440 * i.hi ≤ 20000) :
    (noteOfPower i).ival = ⟨440 * i.lo, 440 * i.hi⟩ := by
  have hends : 440 * i.lo ≤ 440 * i.hi := mul_le_mul_of_nonneg_left hle (by norm_num)
  have hmul : (Ival.point Config.a4Freq).mul i = ⟨440 * i.lo, 440 * i.hi⟩ := by
    simp only [Ival.mul, Ival.point, Config.a4Freq, min_eq_left hends, max_eq_right hends, min_self, max_self]
  unfold noteOfPower
  rw [Tracked.clamp_of_within] <;> simp only [Tracked.map₂, Tracked.of, hmul, Config.freqMax]
  · positivity
  · exact hmax

/-- Where the word is settled in the lowest octave, it is in the next ten, which add to its exponent field. -/
theorem noteOfPower_settled_of_octave {i : Ival} (hlow : 1 / 64 ≤ i.lo) (hle : i.lo ≤ i.hi) (hhigh : i.hi ≤ 1 / 28)
    (hword : toF32 (440 * i.lo) = toF32 (440 * i.hi)) {o : Nat} (ho : o ≤ 10) :
    (noteOfPower (i.scale (pow2 o))).ival.settled = true := by
  have hpos : 0 < i.lo := lt_of_lt_of_le (by norm_num) hlow
  have hscale : i.scale (pow2 o) = ⟨i.lo * 2 ^ o, i.hi * 2 ^ o⟩ := by
    rw [Ival.scale, if_pos (pow2_nonneg _), pow2_eq, zpow_natCast]
  have hmax : 440 * (i.hi * 2 ^ o) ≤ 20000 := by
    have ho' : (2 : Rat) ^ o ≤ 2 ^ 10 := pow_le_pow_right₀ one_le_two ho
    calc 440 * (i.hi * 2 ^ o) ≤ 440 * (1 / 28 * 2 ^ 10) := by gcongr
      _ ≤ 20000 := by norm_num
  have hoctave {x : Rat} (hx : 1 / 64 ≤ x) (hx' : x ≤ i.hi) :
      (toF32 (440 * (x * 2 ^ o))).toNat = (toF32 (440 * x)).toNat + o * 2 ^ 23 := by
    rw [← mul_assoc]
    refine toF32_mul_two_pow (le_trans (by norm_num) (mul_le_mul_of_nonneg_left hx (by norm_num))) o ?_
    calc 440 * x * 2 ^ o ≤ 440 * i.hi * 2 ^ o := by gcongr
      _ ≤ 20000 := by rwa [mul_assoc]
      _ ≤ f32 0x7F7FFFFF#32 := by decide +kernel
  have hends : i.lo * 2 ^ o ≤ i.hi * 2 ^ o := by gcongr
  rw [hscale, noteOfPower_ival (by positivity) hends hmax, Ival.settled, beq_iff_eq]
  apply BitVec.eq_of_toNat_eq
  rw [hoctave hlow hle, hoctave (hlow.trans hle) le_rfl, hword]

/-- The twelve notes of the lowest octave: bounds of their powers of 2, and one word at both ends. -/
theorem lowestOctave_settles : ∀ j : Fin 12,
    let i := exp2Enclosure Config.firstPrecision (noteExponent j)
    1 / 64 ≤ i.lo ∧ i.hi ≤ 1 / 28 ∧ toF32 (440 * i.lo) = toF32 (440 * i.hi) := by
  decide +kernel

/-- The first precision settles the word of every note. -/
theorem noteTracked_settled {n : Byte} (hn : n.toNat ≤ 127) :
    (noteTracked n Config.firstPrecision false).ival.settled = true := by
  obtain ⟨hlow, hhigh, hword⟩ := lowestOctave_settles ⟨n.toNat % 12, Nat.mod_lt _ (by decide)⟩
  rw [noteTracked_false, ← Nat.div_add_mod n.toNat 12, noteExponent_octave, exp2Enclosure_add_intCast]
  exact noteOfPower_settled_of_octave hlow (exp2Enclosure_encloses _ _).lo_le_hi hhigh hword (by omega)

theorem noteFreq_real (n : Byte) :
    noteFreq Numerics.real n = 440 * (2 : ℝ) ^ (((n.toNat : ℝ) - 69) / 12) := by
  show ((Config.a4Freq : Rat) : ℝ) * (2 : ℝ) ^ ((mkRat ((n.toNat : ℤ) - Config.a4Note) 12 : Rat) : ℝ) = _
  rw [Rat.mkRat_eq_div]
  simp [Config.a4Freq, Config.a4Note]

/-- Note 127 is 58 semitones, less than five octaves, above A4. -/
theorem noteFreq_real_mem {n : Byte} (hn : n.toNat ≤ 127) :
    0 ≤ noteFreq Numerics.real n ∧ noteFreq Numerics.real n ≤ Config.freqMax := by
  have hn' : (n.toNat : ℝ) ≤ 127 := by exact_mod_cast hn
  have hpow : (2 : ℝ) ^ (((n.toNat : ℝ) - 69) / 12) ≤ 2 ^ (5 : ℝ) :=
    Real.rpow_le_rpow_of_exponent_le one_le_two (by linarith)
  rw [noteFreq_real, Config.freqMax]
  refine ⟨by positivity, ?_⟩
  norm_num at hpow ⊢
  linarith

/-- A note's frequency is in FREQ's range, so the clamp of R221 leaves it. -/
theorem noteTracked_tracks {n : Byte} (hn : n.toNat ≤ 127) (p : Nat) (keep : Bool) :
    (noteTracked n p keep).tracks (noteFreq Numerics.real n) := by
  obtain ⟨hlow, hhigh⟩ := noteFreq_real_mem hn
  have h := Tracked.clamp_tracks (noteFreq_tracks p keep n) 0 Config.freqMax
  rwa [Rat.cast_zero, max_eq_left hlow, min_eq_left hhigh] at h

theorem noteTracked_within (n : Byte) (p : Nat) (keep : Bool) :
    (noteTracked n p keep).ival.Within 0 Config.freqMax :=
  Tracked.clamp_within (noteFreq_tracks p keep n) (by decide)

theorem noteWord_isToF32 {n : Byte} (hn : n.toNat ≤ 127) : IsToF32 (noteFreq Numerics.real n) (noteWord n) := by
  have hsettles : wordAt (noteTracked n) (Config.firstPrecision * 2 ^ 0) ≠ none := by
    simp [wordAt, Tracked.word, noteTracked_settled hn]
  rw [noteWord_eq]
  exact isToF32_roundTracked isWordValue_zero isWordValue_freqMax (noteTracked_tracks hn)
    (noteTracked_within n) (by decide) hsettles

/-- Settles O15: the word is that of the exact frequency, and the event is queued after FREQ is written. -/
theorem noteOnTunesAndStartsTheNote : Obligations.NoteOnTunesAndStartsTheNote := by
  intro s n vel hn hvel
  refine ⟨noteWord n, noteFreq_real n ▸ noteWord_isToF32 hn, ?_⟩
  show execNoteOn n vel s = _
  rw [execNoteOn_of_velocity_ne_zero hvel, State.noteEvent_eq]

/-! ### Transport and status (44_control.md R236, R237, R239) -/

/-- Settles O16: the rate is accepted just where it is finite and above 0. -/
theorem streamStartReinitialisesOrRefuses : Obligations.StreamStartReinitialisesOrRefuses := by
  intro s w
  by_cases hrate : isFinite w = true ∧ 0 < f32 w
  · rw [if_pos hrate]
    exact if_pos (rateAccepted_iff.mpr hrate)
  · rw [if_neg hrate]
    exact if_neg fun h => hrate (rateAccepted_iff.mp h)

/-- Settles O17: by RUNNING, then by the FILL in progress. -/
theorem streamStopEndsDefersOrDoesNothing : Obligations.StreamStopEndsDefersOrDoesNothing := by
  intro s
  show execStreamStop s = _
  unfold execStreamStop
  cases hrun : s.status.running with
  | false => rfl
  | true =>
    cases hfip : s.fill.fip with
    | false | true => rfl

/-- Settles O19: `State.clearConditions`, field by field. -/
theorem clrStatusClearsTheConditions : Obligations.ClrStatusClearsTheConditions := fun _ => rfl

/-! ### The step (44_control.md R220; log entry 1) -/

/-- Settles O1: the transaction is the next input, and its decoding chooses the branch. -/
theorem stepRunsTheDecodedInstruction : Obligations.StepRunsTheDecodedInstruction :=
  fun _ _ _ _ hin hdecode => step_of_decoded hin hdecode

end Sys2Proof.Machine

/-! PROOFS. The block has no trap, and what a control command leaves to the engine (60_exceptions.md R263,
R267). -/

namespace Sys2Proof.Machine

/-! ### No trap (60_exceptions.md R263, 20_memory.md R70) -/

/-- A FILL is in progress only while a session runs, and the session's rate is finite and above 0. -/
theorem State.Inv.rateAccepted {s : State} (h : s.Inv) (hfip : s.fill.fip = true) :
    rateAccepted s.srate = true := by
  obtain ⟨-, -, -, -, -, -, ⟨⟨hfinite, -⟩, hpos, hstopped, -⟩, -⟩ := h
  cases hrun : s.status.running with
  | true => exact rateAccepted_iff.mpr ⟨hfinite, hpos hrun⟩
  | false =>
    obtain ⟨-, hidle⟩ := hstopped hrun
    exact absurd hfip (by simp [hidle])

theorem engineStep_ne_fault (R : Realization) {s : State} (hinv : s.Inv) (f : Fault) :
    engineStep R s ≠ .fault f := by
  rcases engineStep_cases R s with ⟨-, h⟩ | ⟨-, -, -, h⟩ | ⟨hfip, -, hrate, -⟩ | ⟨-, -, h⟩
  · exact h ▸ nofun
  · exact h ▸ nofun
  · exact absurd (hinv.rateAccepted hfip) (by simp [hrate])
  · exact h ▸ nofun

theorem execFill_ne_fault (fn fbuf : Word) (s : State) (f : Fault) : execFill fn fbuf s ≠ .fault f := by
  rcases execFill_cases fn fbuf s with ⟨-, h⟩ | ⟨-, -, h⟩ | ⟨-, -, -, h⟩ | ⟨-, -, -, h⟩ <;> exact h ▸ nofun

/-- No instruction faults, from any state: a control command completes (R70), and FILL is at most refused. -/
theorem exec_ne_fault (i : Instr) (s : State) (f : Fault) : exec i s ≠ .fault f := by
  by_cases hfill : ∃ fn fbuf, i = .fill fn fbuf
  · obtain ⟨fn, fbuf, rfl⟩ := hfill
    exact execFill_ne_fault fn fbuf s f
  · obtain ⟨t, ht⟩ := everyControlCommandCompletes i s fun fn fbuf h => hfill ⟨fn, fbuf, h⟩
    exact ht ▸ nofun

/-- Settles O57: only a frame without an accepted rate faults, and a state that meets the invariant has an
accepted rate while a FILL is in progress. -/
theorem invariantStatesNeverFault : Obligations.InvariantStatesNeverFault := by
  intro s f hinv
  cases hin : s.inputs with
  | nil =>
    rw [step_of_no_input hin]
    exact engineStep_ne_fault _ hinv f
  | cons x rest =>
    cases x with
    | engineTurn =>
      rw [step_of_engineTurn hin]
      exact engineStep_ne_fault (s := { s with inputs := rest }) _ hinv f
    | port tx =>
      cases hd : decode tx with
      | ok i =>
        rw [step_of_decoded hin hd]
        exact exec_ne_fault i _ f
      | error c =>
        rw [step_of_malformed hin hd]
        exact nofun

/-! ### What a control command leaves alone (60_exceptions.md R267) -/

/-- E, N, LAST_FREQ, SNAP, SRATE, the memory, the draws and the inputs as they were, and of FILLCTX all but
STOP_PEND. -/
def KeepsEngineState (s t : State) : Prop :=
  t.env = s.env ∧ t.n = s.n ∧ t.lastFreq = s.lastFreq ∧ t.snap = s.snap ∧ t.srate = s.srate
    ∧ t.mem = s.mem ∧ t.draws = s.draws ∧ t.inputs = s.inputs
    ∧ t.fill = { s.fill with stopPend := t.fill.stopPend }

/-- A note event writes the queue, or records EVQ_OVERFLOW. -/
theorem keepsEngineState_noteEvent (s : State) (e : NoteEvent) : KeepsEngineState s (s.noteEvent e) := by
  rcases s.noteEvent_cases e with ⟨-, h⟩ | ⟨-, -, h⟩ | ⟨-, -, h⟩ <;> rw [h] <;>
    exact ⟨rfl, rfl, rfl, rfl, rfl, rfl, rfl, rfl, rfl⟩

/-- Of the effects of an instruction, only those of STREAM_START and FILL reach the engine's state. -/
theorem Instr.Effect.keepsEngineState {i : Instr} {s t : State} (h : Effect s i t)
    (hstart : ∀ w, i ≠ .streamStart w) (hfill : ∀ fn fbuf, i ≠ .fill fn fbuf) : KeepsEngineState s t := by
  cases h with
  | beginSession w | badRate w => exact absurd rfl (hstart w)
  | fillStopped fn fbuf | bufferStart fn fbuf => exact absurd rfl (hfill fn fbuf)
  | noteEvent i p hp e => exact keepsEngineState_noteEvent { s with param := p } e
  | setParam | stopIgnored | stopDeferred | endSession | reply | clearConditions =>
    exact ⟨rfl, rfl, rfl, rfl, rfl, rfl, rfl, rfl, rfl⟩

/-- Settles O21: a next state of an instruction is one of its effects. -/
theorem commandsLeaveTheEngineStateAlone : Obligations.CommandsLeaveTheEngineStateAlone :=
  fun _ _ _ hstart hfill h => (exec_effect h).keepsEngineState hstart hfill

end Sys2Proof.Machine

/-! PROOFS. The reset state, and what a session, a FILL or a note keeps of an earlier one
(70_reset_and_hazards.md R280 to R296): the frames after a restart, a note lost within one buffer, and the
refused FILL. -/

namespace Sys2Proof.Machine

/-! ### The reset state (70_reset_and_hazards.md R280) -/

/-- Settles O52: each register read evaluates to its word, and the other pieces are fields of the reset state. -/
theorem resetStateIsAsTheSpecSays : Obligations.ResetStateIsAsTheSpecSays := by
  refine ⟨?registers, rfl, rfl, rfl, rfl⟩
  case registers => decide +kernel

/-! ### A note within one buffer (70_reset_and_hazards.md R285) -/

/-- A Release from origin 0 at value 0, or the Idle it ends in. -/
def Envelope.Soundless (e : Envelope) : Prop :=
  (e.stage = .release ∨ e.stage = .idle) ∧ e.origin = 0 ∧ e.value = 0

/-- Every value of a Release is a multiple of its origin, so no update makes it sound. -/
theorem Envelope.Soundless.envUpdate {e : Envelope} (h : e.Soundless) (dt ap dp rp : Rat) :
    (envUpdate dt ap dp rp e).Soundless := by
  obtain ⟨hrelease | hidle, horigin, -⟩ := h
  · rcases lt_or_ge (e.elapsed + dt) (atLeastEps rp) with hlt | hle
    · rw [envUpdate_release_of_lt dt ap dp rp hrelease hlt]
      exact ⟨.inl hrelease, horigin, by rw [horigin, zero_mul]⟩
    · rw [envUpdate_release_of_le dt ap dp rp hrelease hle]
      exact ⟨.inr rfl, rfl, rfl⟩
  · rw [envUpdate_idle dt ap dp rp hidle]
    exact ⟨.inr hidle, horigin, rfl⟩

/-- The end of a note that has just started releases it from the value it started at. -/
theorem envEnd_envStart_of_not_triggered {e : Envelope} (h : e.stage.triggered = false) (tok : Byte)
    (sus : Rat) :
    envEnd (some tok) (envStart tok sus e)
      = { stage := .release, value := e.value, elapsed := 0, origin := e.value, susSnap := sus,
          note := tok, noteValid := true } := by
  rw [envStart_other (by simp [h]), endReleasesTheSelectedHeldNote, if_pos ⟨.inl rfl, .inr rfl⟩]

/-- Settles O39: the released note is soundless, and an induction over the updates keeps it so. -/
theorem noteWithinOneBufferIsLost : Obligations.NoteWithinOneBufferIsLost := by
  intro tok sus dt ap dp rp e hidle hvalue x
  have hx := envEnd_envStart_of_not_triggered (e := e) (by rw [hidle]; rfl) tok sus
  rw [hvalue] at hx
  have hrelease : x.stage = .release := congrArg Envelope.stage hx
  have hstart : x.Soundless :=
    ⟨.inl hrelease, congrArg Envelope.origin hx, congrArg Envelope.value hx⟩
  refine ⟨hrelease, fun k => ?_⟩
  obtain ⟨-, hsilent⟩ : ((envUpdate dt ap dp rp)^[k] x).Soundless :=
    Function.Iterate.rec Envelope.Soundless hstart (fun _ h => h.envUpdate dt ap dp rp) k
  exact hsilent

/-! ### A restart during a FILL (70_reset_and_hazards.md R296) -/

/-- The state after a frame made with E Idle: E stays at rest, and the frame's word is +0.0. -/
def silentFrame (s : State) : State := frameNext s { s.env with value := 0, elapsed := 0 } 0#32

theorem engineStep_of_idle (R : Realization) {s : State} (hfip : s.fill.fip = true)
    (hj : s.fill.fj.toNat < s.fill.fn.toNat) (hrate : rateAccepted s.srate = true)
    (hidle : s.env.stage = .idle) : engineStep R s = .next (silentFrame s) := by
  have henv : frameEnvelope s = { s.env with value := 0, elapsed := 0 } := envUpdate_idle _ _ _ _ hidle
  have hword : frameWord R s (frameEnvelope s) = 0#32 := if_pos (.inl (by rw [henv]; exact hidle))
  rw [engineStep_of_frame R hfip hj hrate, hword, henv]
  rfl

/-- A silent frame's word is finite, so BADBUF stays as it was. -/
theorem silentFrame_fill (s : State) : (silentFrame s).fill = { s.fill with fj := s.fill.fj + 1#32 } := by
  have hfinite : isFinite 0#32 = true := by decide
  rw [silentFrame, frameNext_fill, hfinite, Bool.not_true, Bool.or_false]

theorem readWord_silentFrame (s : State) :
    Memory.readWord (s.fill.fbuf.toNat + 4 * s.fill.fj.toNat) (silentFrame s).mem = some 0#32 :=
  Memory.readWord_writeWord_same _ _ _

theorem read_silentFrame_other (s : State) {a : Nat}
    (h : a < s.fill.fbuf.toNat + 4 * s.fill.fj.toNat ∨ s.fill.fbuf.toNat + 4 * s.fill.fj.toNat + 4 ≤ a) :
    Memory.read a (silentFrame s).mem = Memory.read a s.mem :=
  Memory.read_writeWord_other _ _ _ h

/-- Settles O29: the restart leaves E Idle and the FILL in progress, so the next frame is silent; and a silent
frame leaves E Idle. -/
theorem restartDuringAFillIsSilent : Obligations.RestartDuringAFillIsSilent := by
  refine ⟨?restart, ?onwards⟩
  case restart =>
    intro R s w hfip hj hfinite hpos
    have hrate := rateAccepted_iff.mpr ⟨hfinite, hpos⟩
    have hframe : engineStep R (s.beginSession w) = .next (silentFrame (s.beginSession w)) :=
      engineStep_of_idle R hfip hj hrate rfl
    exact ⟨s.beginSession w, _, if_pos hrate, hframe, readWord_silentFrame (s.beginSession w), rfl, rfl, rfl,
      rfl, silentFrame_fill _⟩
  case onwards =>
    intro R s hfip hj hfinite hpos hidle hfreq
    have hframe := engineStep_of_idle R hfip hj (rateAccepted_iff.mpr ⟨hfinite, hpos⟩) hidle
    exact ⟨_, hframe, readWord_silentFrame s, fun _ => read_silentFrame_other s, hidle, hfreq, rfl, rfl,
      silentFrame_fill s⟩

/-! ### Refusals (70_reset_and_hazards.md R293) -/

theorem engineStep_ne_refused (R : Realization) (s : State) (x : Refusal) : engineStep R s ≠ .refused x := by
  rcases engineStep_cases R s with ⟨-, h⟩ | ⟨-, -, -, h⟩ | ⟨-, -, -, h⟩ | ⟨-, -, h⟩ <;> exact h ▸ nofun

/-- Alignment is tested first, then the FILL in progress (log entry 11). -/
theorem execFill_refused {fn fbuf : Word} {s : State} {x : Refusal} (h : execFill fn fbuf s = .refused x) :
    (x = .fillMisaligned ∧ fbuf.toNat % 4 ≠ 0)
      ∨ (x = .fillOutstanding ∧ fbuf.toNat % 4 = 0 ∧ s.fill.fip = true) := by
  rcases execFill_cases fn fbuf s with ⟨hmis, h'⟩ | ⟨halign, hfip, h'⟩ | ⟨-, -, -, h'⟩ | ⟨-, -, -, h'⟩ <;>
    rw [h'] at h
  · exact .inl ⟨(Host.Outcome.refused.inj h).symm, hmis⟩
  · exact .inr ⟨(Host.Outcome.refused.inj h).symm, halign, hfip⟩
  · exact nomatch h
  · exact nomatch h

/-- Every control command answers a next state, so only FILL can be refused. -/
theorem eq_fill_of_exec_refused {i : Instr} {s : State} {x : Refusal} (h : exec i s = .refused x) :
    ∃ fn fbuf, i = .fill fn fbuf := by
  by_contra hcontrol
  obtain ⟨t, ht⟩ := everyControlCommandCompletes i s fun fn fbuf hi => hcontrol ⟨fn, fbuf, hi⟩
  rw [ht] at h
  exact nomatch h

/-- FILL comes from the audio port alone: a decoded control transaction encodes to one again. -/
theorem eq_audio_of_decode_fill {tx : Transaction} {fn fbuf : Word} (h : decode tx = .ok (.fill fn fbuf)) :
    tx = .audio fn fbuf := by
  cases tx with
  | control cw ow =>
    obtain ⟨-, hencode⟩ := decodedCommandEncodesToItsWords cw ow _ h
    exact nomatch hencode
  | audio fw fb =>
    cases h
    rfl

/-- Settles O58: of the steps only the execution of a FILL is refused. -/
theorem onlyHostDutyBreachesAreRefused : Obligations.OnlyHostDutyBreachesAreRefused := by
  intro s x h
  cases hin : s.inputs with
  | nil =>
    rw [step_of_no_input hin] at h
    exact absurd h (engineStep_ne_refused _ _ x)
  | cons input rest =>
    cases input with
    | engineTurn =>
      rw [step_of_engineTurn hin] at h
      exact absurd h (engineStep_ne_refused _ _ x)
    | port tx =>
      cases hd : decode tx with
      | error c =>
        rw [step_of_malformed hin hd] at h
        exact nomatch h
      | ok i =>
        rw [step_of_decoded hin hd] at h
        obtain ⟨fn, fbuf, rfl⟩ := eq_fill_of_exec_refused h
        obtain rfl := eq_audio_of_decode_fill hd
        exact ⟨fn, fbuf, rest, rfl, execFill_refused (s := { s with inputs := rest }) h⟩

end Sys2Proof.Machine
